-- ==== Sys2Proof/Word.lean ====
section
/-! DEFINITION. The word and byte types of the part (00 section 3.2; R4): an array word is 32 bits, a wire byte 8. -/

namespace Sys2Proof

/-- A 32-bit array word, or the value of one at a read level (R4). -/
abbrev Word := BitVec 32

/-- A byte on the wire (00 section 3.1). -/
abbrev Byte := BitVec 8

end Sys2Proof
end

