-- ==== Sys2Proof/Config.lean ====
section
/-! DEFINITION. What is fixed at manufacture (Tables 0-2, 1-4) and the two free values of the model. -/

namespace Sys2Proof.Config

/-- Number of array words; word indices run 0 to 16383 (R6). -/
abbrev arrayWords : Nat := 16384

/-- First word of the record region (Table 1-4, R9). -/
abbrev recordStart : Nat := 4134

/-- Number of words of the record region (R9). -/
abbrev recordWords : Nat := 12250

/-- First word of the counter strip pool (R8). -/
abbrev poolStart : Nat := 38

/-- Number of strips of the pool (R8). -/
abbrev stripCount : Nat := 512

/-- Number of option-block words, 0 to 37 (R7, R98). -/
abbrev optionWords : Nat := 38

/-- Thermometer positions of one strip (R79). -/
abbrev stripPositions : Nat := 192

/-- Most entries of the directory (R66). -/
abbrev directoryMax : Nat := 1024

/-- Most jobs the job queue holds (R28). -/
abbrev queueMax : Nat := 8

/-- Most entries the repair list holds (R123). -/
abbrev repairMax : Nat := 32

/-- Most notices a ring holds (R148). -/
abbrev ringMax : Nat := 16

/-- Most entries of a subscription table (R142). -/
abbrev subscriptionMax : Nat := 32

/-- Most findings the findings list holds (R168). -/
abbrev findingsMax : Nat := 16

/-- Most pulses of one word sequence (R11). -/
abbrev pulseMax : Nat := 6

/-- The greatest sequence number (Table 3-4). -/
abbrev sequenceMax : Nat := 4294967295

/-- The greatest counter value (Table 5-3). -/
abbrev counterMax : Nat := 16777215

/-- FREE VALUE. What a 32-bit sequence field holds where R45 or R119 gives a number above
4,294,967,295. The spec states no result there; only an array that no engine wrote can reach it
(DESIGN CHOICE, log entry 6). -/
opaque sequenceBeyondRange : Nat → BitVec 32

/-- FREE VALUE. What a 24-bit counter value holds where R82 or R87 gives a number above
16,777,215. The spec states no result there; only an array that no engine wrote can reach it
(DESIGN CHOICE, log entry 6). -/
opaque counterBeyondRange : Nat → BitVec 24

end Sys2Proof.Config
end

