-- ==== Sys2Proof/Syntax.lean ====
section
/-! DEFINITION. The commands of the part: one constructor of `Instr` per row of spec/opcode_table.json. -/

namespace Sys2Proof

/-- The three host ports (Table 0-1). -/
inductive Port where
  | a
  | b
  | c
deriving DecidableEq, Repr

/-- The bus a host transaction arrives on: the SPI of Port A or Port B (R155), or the I2C bus of
Port C with the 7-bit address the transfer opens with (R156). -/
inductive Bus where
  | spiA
  | spiB
  | i2c (addr : BitVec 7)
deriving DecidableEq, Repr

/-- What follows the command code in a command frame: the tag, the length byte, and every byte after
it (the parameters, the CRC-8 and any surplus), as the host sent them (10 section 10.3). -/
structure Frame where
  tag : Byte
  len : Byte
  rest : List Byte
deriving DecidableEq, Repr

/-- What one pulse, whole or cut, does to the cells it is applied to: the cells named by `sound`
become SOUND, of the others those named by `weak` become WEAK if they were ERASED, and the rest keep
their state. Every outcome R2 and R3 allow is one such pair, and every pair is allowed. -/
structure PulseEffect where
  sound : Word
  weak : Word
deriving DecidableEq, Repr

/-- The steps of the part, in the table's order. Each is whole and indivisible. -/
inductive Instr where
  | deviceReset (cut : PulseEffect)
  | powerLoss (cut : PulseEffect)
  | rstRelease (adr : BitVec 2)
  | mountOptions
  | mountStrips
  | mountRecords
  | mountSort
  | pgmEnRise
  | pgmEnFall (cut : PulseEffect)
  | incompleteFrame (bus : Bus) (bytes : List Byte)
  | unknownCommand (bus : Bus) (code : Byte) (f : Frame)
  | read (bus : Bus) (f : Frame)
  | info (bus : Bus) (f : Frame)
  | list (bus : Bus) (f : Frame)
  | countRead (bus : Bus) (f : Frame)
  | policyRead (bus : Bus) (f : Frame)
  | status (bus : Bus) (f : Frame)
  | identify (bus : Bus) (f : Frame)
  | auditReport (bus : Bus) (f : Frame)
  | subscribe (bus : Bus) (f : Frame)
  | unsubscribe (bus : Bus) (f : Frame)
  | setAlertMask (bus : Bus) (f : Frame)
  | portReset (bus : Bus) (f : Frame)
  | append (bus : Bus) (f : Frame)
  | delete (bus : Bus) (f : Frame)
  | countAdvance (bus : Bus) (f : Frame)
  | countRaise (bus : Bus) (f : Frame)
  | restrict (bus : Bus) (f : Frame)
  | setOption (bus : Bus) (f : Frame)
  | close (bus : Bus) (f : Frame)
  | audit (bus : Bus) (f : Frame)
  | fetchReply (bus : Bus)
  | fetchResult (bus : Bus)
  | fetchNotice (bus : Bus)
  | portStatus (bus : Bus)
  | lastSelectorWrite (addr : BitVec 7) (bytes : List Byte)
  | engineTakeJob
  | engineTakeRepair
  | arrayGrant
  | pulseDone (effect : PulseEffect)
  | alertPulseEnd (p : Port)
  | readBurstEnd
  | auditUnitEnd
  | frameDiscard (bus : Bus) (bytes : List Byte)
deriving DecidableEq, Repr

/-- The twenty commands of Table 12-3 (and Table 10-3). -/
inductive Command where
  | read
  | info
  | list
  | countRead
  | policyRead
  | status
  | identify
  | auditReport
  | subscribe
  | unsubscribe
  | setAlertMask
  | portReset
  | append
  | delete
  | countAdvance
  | countRaise
  | restrict
  | setOption
  | close
  | audit
deriving DecidableEq, Repr

end Sys2Proof
end

