-- ==== Sys2Proof/Machine/State.lean ====
section
/-! DEFINITION. The state of the part as plain data, its reasons to stop, and the state right after power-on. -/

namespace Sys2Proof.Machine

/-! ### The write-once array -/

/-- The 32 cells of one word. A cell named by `sound` is SOUND; one named by `weak` alone is WEAK;
one named by neither is ERASED (Table 1-1, R1). -/
structure Cells where
  weak : Word
  sound : Word
deriving DecidableEq, Repr

/-- A word as the factory leaves it: every cell ERASED (R1). -/
def Cells.erased : Cells := ⟨0#32, 0#32⟩

/-- The array as (word index, cells) pairs; an unlisted word is ERASED in all its cells (R1, log entry 3). -/
abbrev Memory := List (Nat × Cells)

/-! ### Codes and small enumerations -/

/-- Reply and result codes (Table 12-4). -/
inductive Code where
  | ok
  | accepted
  | partialMove
  | stale
  | notFound
  | deleted
  | lost
  | denied
  | frozen
  | noSpace
  | noStrip
  | dirFull
  | programFail
  | isProtected
  | limit
  | mounting
  | locked
  | tableFull
  | auditBusy
  | frameError
  | pending
  | none
  | data
  | badRequest
  | quota
  | queueFull
deriving DecidableEq, Repr

/-- Device states (R113). -/
inductive DeviceState where
  | mounting
  | ready
deriving DecidableEq, Repr

/-- Mount phases (Table 7-1). -/
inductive MountPhase where
  | options
  | strips
  | records
  | sort
  | ready
deriving DecidableEq, Repr

/-- The selectors of Table 10-2. -/
inductive Selector where
  | sendFrame
  | fetchReply
  | fetchResult
  | fetchNotice
  | portStatus
deriving DecidableEq, Repr

/-! ### Port state (Table 10-1) -/

/-- A reply item before its CRC-8 is appended (R175). -/
structure Item where
  code : Code
  cmd : Byte
  tag : Byte
  body : List Byte
deriving DecidableEq, Repr

/-- The READ in hand of a WORKING slot: its tag and its key (R131, R132). -/
structure ReadInHand where
  tag : Byte
  key : Nat
deriving DecidableEq, Repr

/-- The command slot (R154). -/
inductive Slot where
  | empty
  | working (r : ReadInHand)
  | replyReady
deriving DecidableEq, Repr

/-- The kind-specific fields of a result: a job's (Table 2-9) or an audit's (R170). -/
inductive ResultBody where
  | job (seq reached : Nat) (retireWeak : Bool) (attempts : Nat)
  | audit (findings added dropped : Nat)
deriving DecidableEq, Repr

/-- A result record (R38, R170). -/
structure Result where
  code : Code
  tag : Byte
  cmd : Command
  body : ResultBody
deriving DecidableEq, Repr

/-- Notice kinds (Table 9-2). -/
inductive NoticeKind where
  | keyWritten
  | keyDeleted
  | counterMoved
  | policyChanged
  | mountDone
deriving DecidableEq, Repr

/-- A notice (R145); MOUNT_DONE has no originating port. -/
structure Notice where
  kind : NoticeKind
  id : Nat
  value : Word
  origin : Option Port
deriving DecidableEq, Repr

/-- What a subscription names (Table 9-1). -/
inductive SubKind where
  | key
  | counter
deriving DecidableEq, Repr

/-- A subscription entry (R142). -/
structure Subscription where
  kind : SubKind
  id : Nat
deriving DecidableEq, Repr

/-- The state of one port (R154), and the item last copied to its output (R162). -/
structure PortState where
  slot : Slot
  reply : Option Item
  results : List Result
  outstanding : Nat
  ring : List Notice
  wrapped : Bool
  subs : List Subscription
  mask : BitVec 6
  pulseActive : Bool
  lineLow : Bool
  discard : Bool
  truncated : Bool
  output : List Byte
deriving DecidableEq, Repr

/-- A port right after a device reset: the third column of Table 10-1 (R154). -/
def PortState.reset : PortState where
  slot := .empty
  reply := Option.none
  results := []
  outstanding := 0
  ring := []
  wrapped := false
  subs := []
  mask := 0x3F#6
  pulseActive := false
  lineLow := false
  discard := false
  truncated := false
  output := []

/-! ### Jobs (chapter 2) -/

/-- The target of a RESTRICT or POLICY-READ (Table 12-5). -/
inductive PolicyTarget where
  | group (g : Nat)
  | counter (c : Nat)
deriving DecidableEq, Repr

/-- A job's kind with its parameters (Tables 2-1, 2-3). An absent expected sequence is `none`. -/
inductive JobKind where
  | append (key : Nat) (expected : Option Nat) (payload : List Byte)
  | delete (key : Nat) (expected : Option Nat)
  | countAdvance (c n : Nat)
  | countRaise (c v : Nat)
  | restrict (target : PolicyTarget) (marks : Byte)
  | setOption (marks : Byte)
  | close
deriving DecidableEq, Repr

/-- A job record (Table 2-2, R21). -/
structure Job where
  kind : JobKind
  port : Port
  tag : Byte
  orphan : Bool
deriving DecidableEq, Repr

/-! ### The directory, the counter table, the log allocator and the repair list -/

/-- Entry states (Table 4-2). -/
inductive EntryState where
  | live
  | deleted
  | lost
deriving DecidableEq, Repr

/-- A directory entry (Table 4-1, R65). -/
structure DirEntry where
  key : Nat
  state : EntryState
  location : Nat
  w : Nat
  pad : Nat
  seq : Nat
  writer : Port
deriving DecidableEq, Repr

/-- A counter table entry (Table 5-3). `highest = none` is the spec's −1. -/
structure CounterEntry where
  id : Nat
  strip : Option Nat
  base : Nat
  ones : Nat
  highest : Option Nat
  value : Nat
deriving DecidableEq, Repr

/-- The log allocator (Table 3-4, R81). -/
structure LogAllocator where
  appendPoint : Nat
  nextSeq : Nat
  stripCursor : Nat
deriving DecidableEq, Repr

/-- Repair kinds (Table 7-5). -/
inductive RepairKind where
  | retire
  | touchUp
deriving DecidableEq, Repr

/-- A repair entry (Table 7-5). -/
structure RepairEntry where
  kind : RepairKind
  word : Nat
deriving DecidableEq, Repr

/-- The repair list and its two counts (R123). -/
structure RepairList where
  entries : List RepairEntry
  done : Nat
  failed : Nat
deriving DecidableEq, Repr

/-! ### The programming engine -/

/-- Engine states (Table 2-5). -/
inductive EngineState where
  | idle
  | checking
  | waiting
  | programming
  | finishing
deriving DecidableEq, Repr

/-- The word of a record whose sequence is prepared next (Table 3-5). -/
inductive RecordWord where
  | header
  | sequence
  | payload (i : Nat)
  | check
  | commit
  | selfRetire
  | retire
deriving DecidableEq, Repr

/-- A span allocated for an attempt, with what the engine built for it (R53). -/
structure Span where
  location : Nat
  w : Nat
  pad : Nat
  seq : Nat
  header : Word
  payload : List Word
  check : Word
deriving DecidableEq, Repr

/-- The key's record before the commit: what the engine keeps of the entry a commit replaced (R57, R67). -/
structure PreviousRecord where
  location : Nat
  w : Nat
  seq : Nat
deriving DecidableEq, Repr

/-- Working state of an APPEND or DELETE (Table 3-5). -/
structure RecordWork where
  attempts : Nat
  span : Option Span
  next : RecordWord
  previous : Option PreviousRecord
deriving DecidableEq, Repr

/-- The stage an open attempt has reached (Table 5-4, R89 to R91). -/
inductive OpenStage where
  | base
  | claim
  | void
deriving DecidableEq, Repr

/-- Working state of a counter job (Table 5-4). -/
structure CounterWork where
  counter : Nat
  start : Nat
  target : Nat
  remaining : Nat
  nextPos : Nat
  openAttempts : Nat
  opening : Option (Nat × OpenStage)
deriving DecidableEq, Repr

/-- The per-kind working state of the active job; `policy` says whether the job's one sequence ran (R110). -/
inductive Work where
  | none
  | record (w : RecordWork)
  | counter (w : CounterWork)
  | policy (ran : Bool)
deriving DecidableEq, Repr

/-- A word sequence, prepared or running (Table 1-6). `cut` is the model's mark that the pulse in
progress has already been cut by a fall of PGM_EN (R3, R12). Before the opening read `margin` is 0 (DESIGN CHOICE,
log entry 28). -/
structure Sequence where
  word : Nat
  target : Word
  pulses : Nat
  margin : Word
  cut : Bool
deriving DecidableEq, Repr

/-- The programming engine (Table 2-5, R29). -/
structure Engine where
  state : EngineState
  job : Option Job
  repair : Option RepairEntry
  work : Work
  seq : Option Sequence
deriving DecidableEq, Repr

/-- The engine with nothing in hand (R29). -/
def Engine.resting : Engine := ⟨.idle, Option.none, Option.none, .none, Option.none⟩

/-! ### The arbiter -/

/-- Claimants of the array (Table 1-10). -/
inductive Claimant where
  | engine
  | reader (p : Port)
  | audit
deriving DecidableEq, Repr

/-- The holder of the array (Table 1-11). A reader holds it with the directory entry its lookup
returned in the event of the grant (R70, R133). -/
inductive Holder where
  | none
  | engine
  | reader (p : Port) (entry : DirEntry)
  | audit
deriving DecidableEq, Repr

/-- Last grant class (Table 1-11). -/
inductive GrantClass where
  | none
  | engine
  | reader
deriving DecidableEq, Repr

/-- The set of pending claims (Table 1-11), one mark for each claimant. -/
structure Claims where
  engine : Bool
  readerA : Bool
  readerB : Bool
  readerC : Bool
  audit : Bool
deriving DecidableEq, Repr

/-- The arbiter (Table 1-11). `decided` is the model's own: R17 grants a free array at once, and this is the
claimant so chosen while a later claim waits and ARRAY_GRANT has not yet carried the grant out (log entry 23). -/
structure Arbiter where
  holder : Holder
  claims : Claims
  lastClass : GrantClass
  lastServed : Port
  decided : Option Claimant
deriving DecidableEq, Repr

/-! ### The mount scanner -/

/-- Record kinds (Table 12-1). -/
inductive RecordKind where
  | data
  | tombstone
deriving DecidableEq, Repr

/-- The decoded fields of a record header (Table 3-2). -/
structure Header where
  key : Nat
  w : Nat
  pad : Nat
  kind : RecordKind
  writer : Port
deriving DecidableEq, Repr

/-- Record classes (Table 3-3). -/
inductive RecordClass where
  | blank
  | tornHeader
  | torn
  | retired
  | damaged
  | candidate
deriving DecidableEq, Repr

/-- A record with a valid header met by the walk: where it stands, its header, its class, its sequence
as read (R45) and whether its commit is sound (R118). -/
structure FoundRecord where
  location : Nat
  header : Header
  cls : RecordClass
  seq : Nat
  sound : Bool
deriving DecidableEq, Repr

/-- One key of the key table: its winner and the stale records before it (Table 7-1). -/
structure KeyRecord where
  key : Nat
  winner : FoundRecord
  stale : List FoundRecord
deriving DecidableEq, Repr

/-- The mount report (Table 7-4). -/
structure MountReport where
  live : Nat
  deleted : Nat
  lost : Nat
  notAdmitted : Nat
  torn : Nat
  tornHeader : Nat
  damaged : Nat
  stale : Nat
  retired : Nat
  claimedStrips : Nat
  deadStrips : Nat
  appendPoint : Nat
  freeWords : Nat
  nextSeq : Nat
  dropped : Nat
  withheld : Nat
deriving DecidableEq, Repr

/-- The report right after a device reset: every count 0 (R113). -/
def MountReport.empty : MountReport := ⟨0, 0, 0, 0, 0, 0, 0, 0, 0, 0, 0, 0, 0, 0, 0, 0⟩

/-- The mount scanner (Table 7-1). -/
structure MountScanner where
  phase : MountPhase
  walk : Nat
  keyTable : List KeyRecord
  greatest : Option Nat
  report : MountReport
deriving DecidableEq, Repr

/-! ### The audit scanner -/

/-- Walk stages (Table 11-1). -/
inductive AuditStage where
  | records
  | strips
deriving DecidableEq, Repr

/-- Finding regions (Table 12-5). -/
inductive Region where
  | record
  | strip
deriving DecidableEq, Repr

/-- A finding (11 section 11.1). -/
structure Finding where
  word : Nat
  region : Region
  id : Nat
deriving DecidableEq, Repr

/-- The audit scanner (Table 11-1). -/
structure AuditScanner where
  running : Bool
  requester : Option (Port × Byte)
  touchUp : Bool
  orphan : Bool
  capturedAppend : Option Nat
  capturedCursor : Option Nat
  stage : AuditStage
  position : Nat
  findings : List Finding
  overflow : Nat
  added : Nat
  dropped : Nat
deriving DecidableEq, Repr

/-- The audit scanner right after a device reset (Table 11-1). -/
def AuditScanner.reset : AuditScanner where
  running := false
  requester := Option.none
  touchUp := false
  orphan := false
  capturedAppend := Option.none
  capturedCursor := Option.none
  stage := .records
  position := Config.recordStart
  findings := []
  overflow := 0
  added := 0
  dropped := 0

/-! ### The whole part -/

/-- The part. `array` outlives every reset; `powered`, `rstLow`, `pgmEn` and `portCAdr` are pins or
samples of pins; `pending` is the model's queue of events; all else is RAM state. -/
structure State where
  array : Memory
  powered : Bool
  rstLow : Bool
  pgmEn : Bool
  portCAdr : BitVec 2
  device : DeviceState
  mount : MountScanner
  policy : List Word
  directory : List DirEntry
  counters : List CounterEntry
  log : LogAllocator
  repair : RepairList
  engine : Engine
  jobs : List Job
  arbiter : Arbiter
  audit : AuditScanner
  portA : PortState
  portB : PortState
  portC : PortState
  lastSelector : Selector
  pending : List Instr
deriving DecidableEq, Repr

/-- Reasons the machine stops with a fault. -/
inductive Fault where
  /-- Raised by ARRAY_GRANT, PULSE_DONE, READ_BURST_END and AUDIT_UNIT_END when the grant would touch a
  word index above 16383, which does not exist (R6). Safe: the model stops where the spec gives the
  part no such word; no run from reset reaches it. -/
  | noSuchWord
deriving DecidableEq, Repr

/-- Reasons a command has no meaning. -/
inductive Refusal where
  /-- Raised by an arm of `exec` for a command that has no meaning yet; no arm does. Safe. -/
  | notModelled (mnemonic : String)
deriving DecidableEq, Repr

/-- The part right after power-on, RST still low: the values of R113, R29, Table 1-11, Table 10-1,
Table 11-1 and R123, an array as it leaves the factory (R1), and the chosen values of log entries 3 to 5. -/
def State.reset : State where
  array := []
  powered := true
  rstLow := true
  pgmEn := false
  portCAdr := 0#2
  device := .mounting
  mount := ⟨.options, Config.recordStart, [], Option.none, MountReport.empty⟩
  policy := []
  directory := []
  counters := []
  log := ⟨Config.recordStart, 1, 0⟩
  repair := ⟨[], 0, 0⟩
  engine := Engine.resting
  jobs := []
  arbiter := ⟨.none, ⟨false, false, false, false, false⟩, .none, .c, Option.none⟩
  audit := AuditScanner.reset
  portA := PortState.reset
  portB := PortState.reset
  portC := PortState.reset
  lastSelector := .portStatus
  pending := []

end Sys2Proof.Machine
end

