-- ==== Sys2Proof/Machine/Bits.lean ====
section
/-! DEFINITION. Bit counts, byte order and the two checks (00 section 3.3; R173). -/

namespace Sys2Proof.Machine

/-- The number of 1 bits of `x`. -/
def onesCount {n : Nat} (x : BitVec n) : Nat :=
  (List.range n).countP (fun i => x.getLsbD i)

/-- The number of 0 bits of `x`: what a guard counts (R43, R79). -/
def zerosCount {n : Nat} (x : BitVec n) : Nat := n - onesCount x

/-- `n` as `k` bytes, least-significant byte first (00 section 3.3). -/
def leBytes (n : Nat) : Nat → List Byte
  | 0 => []
  | k + 1 => BitVec.ofNat 8 n :: leBytes (n / 256) k

/-- The number that bytes spell, least-significant byte first. -/
def leNat : List Byte → Nat
  | [] => 0
  | b :: bs => b.toNat + 256 * leNat bs

/-- An array word taken as bytes (00 section 3.3). -/
def wordBytes (w : Word) : List Byte := leBytes w.toNat 4

/-- Up to four bytes packed into a word, least-significant first, the missing ones zero (R43). -/
def packWord (bs : List Byte) : Word := BitVec.ofNat 32 (leNat bs)

/-- The payload words of a payload: four bytes to a word in order, the last padded with zero bytes (R43). -/
def packPayload : List Byte → List Word
  | [] => []
  | [b0] => [packWord [b0]]
  | [b0, b1] => [packWord [b0, b1]]
  | [b0, b1, b2] => [packWord [b0, b1, b2]]
  | b0 :: b1 :: b2 :: b3 :: rest => packWord [b0, b1, b2, b3] :: packPayload rest

/-- One shift of the CRC-32 register (R173). -/
def crc32Shift (r : Word) : Word :=
  if r.getLsbD 0 then (r >>> 1) ^^^ 0xEDB88320#32 else r >>> 1

/-- One byte into the CRC-32 register (R173). -/
def crc32Byte (r : Word) (b : Byte) : Word := crc32Shift^[8] (r ^^^ b.setWidth 32)

/-- The CRC-32 of a sequence of bytes (R173). -/
def crc32 (bs : List Byte) : Word := ~~~ (bs.foldl crc32Byte 0xFFFFFFFF#32)

/-- One shift of the CRC-8 register (R173). -/
def crc8Shift (r : Byte) : Byte :=
  if r.getLsbD 7 then (r <<< 1) ^^^ 0x07#8 else r <<< 1

/-- One byte into the CRC-8 register (R173). -/
def crc8Byte (r b : Byte) : Byte := crc8Shift^[8] (r ^^^ b)

/-- The CRC-8 of a sequence of bytes (R173). -/
def crc8 (bs : List Byte) : Byte := bs.foldl crc8Byte 0#8

end Sys2Proof.Machine
end

