-- ==== Sys2Proof/Machine/Codes.lean ====
section
/-! DEFINITION. The codes of the wire (Tables 12-2 to 12-5, R175) and the form of a frame (R157, R158). -/

namespace Sys2Proof.Machine

/-- The command codes of Table 12-3. -/
def commandCode : Command → Byte
  | .read => 0x01#8
  | .info => 0x02#8
  | .list => 0x03#8
  | .countRead => 0x04#8
  | .policyRead => 0x05#8
  | .status => 0x06#8
  | .identify => 0x07#8
  | .auditReport => 0x08#8
  | .subscribe => 0x09#8
  | .unsubscribe => 0x0A#8
  | .setAlertMask => 0x0B#8
  | .portReset => 0x0C#8
  | .append => 0x20#8
  | .delete => 0x21#8
  | .countAdvance => 0x22#8
  | .countRaise => 0x23#8
  | .restrict => 0x24#8
  | .setOption => 0x25#8
  | .close => 0x26#8
  | .audit => 0x30#8

/-- Every command of Table 12-3. -/
def allCommands : List Command :=
  [.read, .info, .list, .countRead, .policyRead, .status, .identify, .auditReport, .subscribe,
    .unsubscribe, .setAlertMask, .portReset, .append, .delete, .countAdvance, .countRaise, .restrict,
    .setOption, .close, .audit]

/-- The command a code names, none for a code outside Table 12-3. -/
def commandOf (code : Byte) : Option Command := allCommands.find? (fun c => commandCode c == code)

/-- The reply and result codes of Table 12-4. -/
def codeByte : Code → Byte
  | .ok => 0x00#8
  | .accepted => 0x01#8
  | .partialMove => 0x02#8
  | .stale => 0x03#8
  | .notFound => 0x04#8
  | .deleted => 0x05#8
  | .lost => 0x06#8
  | .denied => 0x07#8
  | .frozen => 0x08#8
  | .noSpace => 0x09#8
  | .noStrip => 0x0A#8
  | .dirFull => 0x0B#8
  | .programFail => 0x0C#8
  | .isProtected => 0x0D#8
  | .limit => 0x0E#8
  | .mounting => 0x0F#8
  | .locked => 0x10#8
  | .tableFull => 0x11#8
  | .auditBusy => 0x12#8
  | .frameError => 0x13#8
  | .pending => 0x14#8
  | .none => 0x15#8
  | .data => 0x16#8
  | .badRequest => 0x17#8
  | .quota => 0x18#8
  | .queueFull => 0x19#8

/-- The selector of a selector code; an unknown code has none (Table 12-2). -/
def selectorOf (code : Byte) : Option Selector :=
  if code = 0x01#8 then some .sendFrame
  else if code = 0x02#8 then some .fetchReply
  else if code = 0x03#8 then some .fetchResult
  else if code = 0x04#8 then some .fetchNotice
  else if code = 0x05#8 then some .portStatus
  else none

/-- The number of a port: A 0, B 1, C 2 (Tables 12-1, 12-5). -/
def portIndex : Port → Nat
  | .a => 0
  | .b => 1
  | .c => 2

/-- A port byte (Table 12-5). -/
def portByte (p : Port) : Byte := BitVec.ofNat 8 (portIndex p)

/-- An originating port byte; FF hex for none (Table 12-5). -/
def originByte : Option Port → Byte
  | some p => portByte p
  | none => 0xFF#8

/-- A flag byte (Table 12-5). -/
def flagByte (b : Bool) : Byte := if b then 0x01#8 else 0x00#8

/-- An entry state byte (Table 12-5). -/
def entryStateByte : EntryState → Byte
  | .live => 0x00#8
  | .deleted => 0x01#8
  | .lost => 0x02#8

/-- A device state byte (Table 12-5). -/
def deviceByte : DeviceState → Byte
  | .mounting => 0x00#8
  | .ready => 0x01#8

/-- A mount phase byte (Table 12-5). -/
def phaseByte : MountPhase → Byte
  | .options => 0x00#8
  | .strips => 0x01#8
  | .records => 0x02#8
  | .sort => 0x03#8
  | .ready => 0x04#8

/-- An engine state byte (Table 12-5). -/
def engineStateByte : EngineState → Byte
  | .idle => 0x00#8
  | .checking => 0x01#8
  | .waiting => 0x02#8
  | .programming => 0x03#8
  | .finishing => 0x04#8

/-- A finding region byte (Table 12-5). -/
def regionByte : Region → Byte
  | .record => 0x00#8
  | .strip => 0x01#8

/-- A policy target byte (Table 12-5). -/
def targetByte : PolicyTarget → Byte
  | .group g => BitVec.ofNat 8 g
  | .counter c => BitVec.ofNat 8 (16 + c)

/-- A notice kind's code (R175). -/
def noticeByte : NoticeKind → Byte
  | .keyWritten => 0x40#8
  | .keyDeleted => 0x41#8
  | .counterMoved => 0x42#8
  | .policyChanged => 0x43#8
  | .mountDone => 0x44#8

/-- The bit of a notice kind's enable in the alert mask (R174). -/
def noticeEnableBit : NoticeKind → Nat
  | .keyWritten => 0
  | .keyDeleted => 1
  | .counterMoved => 2
  | .policyChanged => 3
  | .mountDone => 4

/-- The bit of the RESULT enable in the alert mask (R174). -/
def resultEnableBit : Nat := 5

/-! ### The form of a frame -/

/-- The bytes of a frame after its selector: the command code, then what the host sent after it. -/
def frameBytes (code : Byte) (f : Frame) : List Byte := code :: f.tag :: f.len :: f.rest

/-- A frame that is incomplete at the end of its transaction (R157). -/
def frameIncomplete : List Byte → Bool
  | _ :: _ :: len :: rest => decide (len.toNat ≤ 250) && decide (rest.length < len.toNat + 1)
  | _ => true

/-- A complete frame with a form fault: length byte over 250, surplus bytes, or a CRC-8 that does not
match (R158). -/
def frameFault (code tag len : Byte) (rest : List Byte) : Bool :=
  decide (250 < len.toNat) || decide (len.toNat + 1 < rest.length) ||
    (rest.getD len.toNat 0#8 != crc8 (code :: tag :: len :: rest.take len.toNat))

/-- The frame a host builds for a command: the parameters' length and the CRC-8 in place (10 section 10.3). -/
def goodFrame (cmd : Command) (tag : Byte) (params : List Byte) : Frame :=
  let len := BitVec.ofNat 8 params.length
  ⟨tag, len, params ++ [crc8 (commandCode cmd :: tag :: len :: params)]⟩

end Sys2Proof.Machine
end

