-- ==== Sys2Proof/Decode.lean ====
section
/-! DEFINITION. The words of the table, which give no row any bits, and the row a frame's bytes belong to. -/

namespace Sys2Proof

open Machine

/-- The command that a word spells by the table's bits. spec/opcode_table.json gives no row any bits, so
no word spells one. -/
def decodeTableWord (_nbits _w : Nat) : Option Instr := none

/-- The row of a complete frame with this command (Table 10-3). -/
def commandRow (bus : Bus) (f : Frame) : Command → Instr
  | .read => .read bus f
  | .info => .info bus f
  | .list => .list bus f
  | .countRead => .countRead bus f
  | .policyRead => .policyRead bus f
  | .status => .status bus f
  | .identify => .identify bus f
  | .auditReport => .auditReport bus f
  | .subscribe => .subscribe bus f
  | .unsubscribe => .unsubscribe bus f
  | .setAlertMask => .setAlertMask bus f
  | .portReset => .portReset bus f
  | .append => .append bus f
  | .delete => .delete bus f
  | .countAdvance => .countAdvance bus f
  | .countRaise => .countRaise bus f
  | .restrict => .restrict bus f
  | .setOption => .setOption bus f
  | .close => .close bus f
  | .audit => .audit bus f

/-- The row of a SEND-FRAME transaction that carried `bytes`: INCOMPLETE_FRAME (R157), the row of its
command code, or UNKNOWN_COMMAND (R159). -/
def frameRow (bus : Bus) (bytes : List Byte) : Instr :=
  match bytes with
  | code :: tag :: len :: rest =>
      if frameIncomplete bytes then .incompleteFrame bus bytes
      else
        match commandOf code with
        | some cmd => commandRow bus ⟨tag, len, rest⟩ cmd
        | none => .unknownCommand bus code ⟨tag, len, rest⟩
  | _ => .incompleteFrame bus bytes

/-- The SEND-FRAME transaction a row stands for: its bus and the bytes after the selector. -/
def rowFrame : Instr → Option (Bus × List Byte)
  | .incompleteFrame bus bytes => some (bus, bytes)
  | .unknownCommand bus code f => some (bus, frameBytes code f)
  | .read bus f => some (bus, frameBytes (commandCode .read) f)
  | .info bus f => some (bus, frameBytes (commandCode .info) f)
  | .list bus f => some (bus, frameBytes (commandCode .list) f)
  | .countRead bus f => some (bus, frameBytes (commandCode .countRead) f)
  | .policyRead bus f => some (bus, frameBytes (commandCode .policyRead) f)
  | .status bus f => some (bus, frameBytes (commandCode .status) f)
  | .identify bus f => some (bus, frameBytes (commandCode .identify) f)
  | .auditReport bus f => some (bus, frameBytes (commandCode .auditReport) f)
  | .subscribe bus f => some (bus, frameBytes (commandCode .subscribe) f)
  | .unsubscribe bus f => some (bus, frameBytes (commandCode .unsubscribe) f)
  | .setAlertMask bus f => some (bus, frameBytes (commandCode .setAlertMask) f)
  | .portReset bus f => some (bus, frameBytes (commandCode .portReset) f)
  | .append bus f => some (bus, frameBytes (commandCode .append) f)
  | .delete bus f => some (bus, frameBytes (commandCode .delete) f)
  | .countAdvance bus f => some (bus, frameBytes (commandCode .countAdvance) f)
  | .countRaise bus f => some (bus, frameBytes (commandCode .countRaise) f)
  | .restrict bus f => some (bus, frameBytes (commandCode .restrict) f)
  | .setOption bus f => some (bus, frameBytes (commandCode .setOption) f)
  | .close bus f => some (bus, frameBytes (commandCode .close) f)
  | .audit bus f => some (bus, frameBytes (commandCode .audit) f)
  | .deviceReset _ => none
  | .powerLoss _ => none
  | .rstRelease _ => none
  | .mountOptions => none
  | .mountStrips => none
  | .mountRecords => none
  | .mountSort => none
  | .pgmEnRise => none
  | .pgmEnFall _ => none
  | .fetchReply _ => none
  | .fetchResult _ => none
  | .fetchNotice _ => none
  | .portStatus _ => none
  | .lastSelectorWrite _ _ => none
  | .engineTakeJob => none
  | .engineTakeRepair => none
  | .arrayGrant => none
  | .pulseDone _ => none
  | .alertPulseEnd _ => none
  | .readBurstEnd => none
  | .auditUnitEnd => none
  | .frameDiscard _ _ => none

end Sys2Proof
end

