-- ==== Sys2Proof/Machine/Memory.lean ====
section
/-! DEFINITION. The write-once array: reading a word at a level, applying a pulse, the canonical form (R1 to R4). -/

namespace Sys2Proof.Machine

/-- The cells of word `i`; an unlisted word is ERASED in all its cells (R1, log entry 3). -/
def cellsAt (m : Memory) (i : Nat) : Cells :=
  ((m.find? (fun e => e.1 == i)).map (fun e => e.2)).getD Cells.erased

/-- The value of a word's cells at normal level: WEAK and SOUND cells read 1 (Table 1-1). -/
def normalOf (c : Cells) : Word := c.weak ||| c.sound

/-- The value of a word's cells at margin level: SOUND cells read 1 (Table 1-1). -/
def marginOf (c : Cells) : Word := c.sound

/-- The value of word `i` at normal level (R4). -/
def readNormal (m : Memory) (i : Nat) : Word := normalOf (cellsAt m i)

/-- The value of word `i` at margin level (R4). -/
def readMargin (m : Memory) (i : Nat) : Word := marginOf (cellsAt m i)

/-- Word `i` becomes `c`, the canonical form kept: strictly rising indices, no ERASED entry. -/
def writeCells : Memory → Nat → Cells → Memory
  | [], i, c => if c = Cells.erased then [] else [(i, c)]
  | e :: rest, i, c =>
      if i < e.1 then (if c = Cells.erased then e :: rest else (i, c) :: e :: rest)
      else if i = e.1 then (if c = Cells.erased then rest else (i, c) :: rest)
      else e :: writeCells rest i c

/-- What a pulse with effect `e` applied to the cells named by `mask` leaves of a word (Table 1-2):
each pulsed cell moves to a state its old state allows, and no other cell changes (R2, R3). -/
def pulseCells (c : Cells) (mask : Word) (e : PulseEffect) : Cells :=
  let sound := c.sound ||| (mask &&& e.sound)
  ⟨(c.weak ||| (mask &&& e.weak)) &&& ~~~ sound, sound⟩

/-- A pulse applied to the cells of word `i` named by `mask` (R2). -/
def pulseWord (m : Memory) (i : Nat) (mask : Word) (e : PulseEffect) : Memory :=
  writeCells m i (pulseCells (cellsAt m i) mask e)

/-- The canonical form of the array: indices strictly rising and below 16384, no entry ERASED in all
its cells, and no cell marked both WEAK and SOUND, so that every cell is in exactly one state (R1). -/
def Memory.wf (m : Memory) : Bool :=
  decide (m.Pairwise (fun x y => x.1 < y.1)) &&
    m.all (fun e => decide (e.1 < Config.arrayWords) && e.2 != Cells.erased && (e.2.weak &&& e.2.sound) == 0#32)

end Sys2Proof.Machine
end

