-- ==== Sys2Proof/Machine/Formats.lean ====
section
/-! DEFINITION. The decoded array words (Table 12-1, R172), record spans (R42, R49) and strips (R79, R80). -/

namespace Sys2Proof.Machine

/-! ### Record headers (R43, R44, R172) -/

/-- The two kind bits of a header (Table 12-1). -/
def kindBits : RecordKind → BitVec 2
  | .data => 0b01#2
  | .tombstone => 0b10#2

/-- The 24 field bits of a header: key, W, pad, kind, writer from bit 0 up (Table 12-1). -/
def headerFields (h : Header) : BitVec 24 :=
  BitVec.ofNat 2 (portIndex h.writer) ++ kindBits h.kind ++ BitVec.ofNat 2 h.pad ++
    BitVec.ofNat 6 h.w ++ BitVec.ofNat 12 h.key

/-- A 24-bit field word with its guard in bits 24 to 28 and zeros above (Table 12-1). -/
def withGuard24 (fields : BitVec 24) : Word :=
  0#3 ++ BitVec.ofNat 5 (zerosCount fields) ++ fields

/-- The guard of a 24-bit field word holds and its Zero bits read clear (R44, R79, R172). -/
def guard24Holds (v : Word) : Bool :=
  (v.extractLsb' 24 5).toNat == zerosCount (v.extractLsb' 0 24) && v.extractLsb' 29 3 == 0#3

/-- The encoded header word (R43). -/
def encodeHeader (h : Header) : Word := withGuard24 (headerFields h)

/-- The kind that two kind bits name; 00 and 11 name none (R172). -/
def kindOf (b : BitVec 2) : Option RecordKind :=
  if b = 0b01#2 then some .data else if b = 0b10#2 then some .tombstone else none

/-- The writer port that two bits name; 11 names none (R172). -/
def writerOf (b : BitVec 2) : Option Port :=
  if b = 0b00#2 then some .a else if b = 0b01#2 then some .b else if b = 0b10#2 then some .c else none

/-- The fields of a valid header word, none for an invalid one (R44, R172). -/
def decodeHeader (v : Word) : Option Header :=
  match kindOf (v.extractLsb' 20 2), writerOf (v.extractLsb' 22 2) with
  | some kind, some writer =>
      let key := (v.extractLsb' 0 12).toNat
      let w := (v.extractLsb' 12 6).toNat
      let pad := (v.extractLsb' 18 2).toNat
      if guard24Holds v && decide (1 ≤ key) && decide (key ≤ 4094) && decide (w ≤ 59) &&
          (decide (w ≠ 0) || decide (pad = 0)) then
        some ⟨key, w, pad, kind, writer⟩
      else none
  | _, _ => none

/-- A header's fields lie within Table 3-2, with pad 0 when W is 0 (R43). -/
def Header.inRange (h : Header) : Bool :=
  decide (1 ≤ h.key) && decide (h.key ≤ 4094) && decide (h.w ≤ 59) && decide (h.pad ≤ 3) &&
    (decide (h.w ≠ 0) || decide (h.pad = 0))

/-! ### Strip base and claim words (R79, R172) -/

/-- The encoded base word of a base value (R79). -/
def encodeBase (base : Nat) : Word := withGuard24 (BitVec.ofNat 24 base)

/-- The base value of a valid base word, none for an invalid one (R79). -/
def decodeBase (v : Word) : Option Nat :=
  if guard24Holds v then some (v.extractLsb' 0 24).toNat else none

/-- The encoded claim word of a counter id (R79). -/
def encodeClaim (c : Nat) : Word :=
  0#25 ++ BitVec.ofNat 3 (zerosCount (BitVec.ofNat 4 c)) ++ BitVec.ofNat 4 c

/-- The counter id of a valid claim word, none for an invalid one (R79). -/
def decodeClaim (v : Word) : Option Nat :=
  if (v.extractLsb' 4 3).toNat == zerosCount (v.extractLsb' 0 4) && v.extractLsb' 7 25 == 0#25 then
    some (v.extractLsb' 0 4).toNat
  else none

/-! ### Record spans (R42) -/

/-- Words of a span with W payload words. -/
def spanLength (w : Nat) : Nat := 5 + w

/-- The check word's index of the record at `h` (Table 3-1). -/
def checkIndex (h w : Nat) : Nat := h + 2 + w

/-- The commit word's index (Table 3-1). -/
def commitIndex (h w : Nat) : Nat := h + 3 + w

/-- The retire word's index (Table 3-1). -/
def retireIndex (h w : Nat) : Nat := h + 4 + w

/-- The check of a record's words: CRC-32 over header, sequence and payload words (R46). -/
def recordCheck (header sequence : Word) (payload : List Word) : Word :=
  crc32 ((header :: sequence :: payload).flatMap wordBytes)

/-- The W payload words of the record at `h`, at normal level (R134). -/
def payloadWords (m : Memory) (h w : Nat) : List Word :=
  (List.range w).map (fun i => readNormal m (h + 2 + i))

/-- The check of the record at `h` passes (R46). -/
def checkPasses (m : Memory) (h w : Nat) : Bool :=
  recordCheck (readNormal m h) (readNormal m (h + 1)) (payloadWords m h w) == readNormal m (checkIndex h w)

/-- The record at `h` is committed (R47). -/
def isCommitted (m : Memory) (h w : Nat) : Bool := readNormal m (commitIndex h w) == BitVec.allOnes 32

/-- The commit of the record at `h` is sound (R47). -/
def isSoundCommit (m : Memory) (h w : Nat) : Bool := readMargin m (commitIndex h w) == BitVec.allOnes 32

/-- The record at `h` is retired (R48). -/
def isRetired (m : Memory) (h w : Nat) : Bool := readNormal m (retireIndex h w) != 0#32

/-- The header of the record that starts at `h`, when it is valid and its span fits the region (R49). -/
def spanHeader (m : Memory) (h : Nat) : Option Header :=
  match decodeHeader (readNormal m h) with
  | some hdr => if retireIndex h hdr.w < Config.arrayWords then some hdr else none
  | none => none

/-- The class of what stands at `h`: the first matching row of Table 3-3 (R49). -/
def classifyRecord (m : Memory) (h : Nat) : RecordClass :=
  if readNormal m h = 0#32 then .blank
  else
    match spanHeader m h with
    | none => .tornHeader
    | some hdr =>
        if !isCommitted m h hdr.w then .torn
        else if isRetired m h hdr.w then .retired
        else if !checkPasses m h hdr.w then .damaged
        else .candidate

/-- The words the scan steps over at `h`: 1 for a TORN_HEADER, else the span (Table 3-3). A BLANK
header ends the log. -/
def recordLength (m : Memory) (h : Nat) : Nat :=
  match spanHeader m h with
  | none => 1
  | some hdr => spanLength hdr.w

/-- A class that competes to be its key's current record (R49). -/
def competes (c : RecordClass) : Bool :=
  match c with
  | .candidate => true
  | .damaged => true
  | .blank => false
  | .tornHeader => false
  | .torn => false
  | .retired => false

/-! ### Strips (R8, R79, R80) -/

/-- The array index of word `k` of strip `s` (R8). -/
def stripWord (s k : Nat) : Nat := Config.poolStart + 8 * s + k

/-- The states of a strip (Table 5-2). -/
inductive StripClass where
  | free
  | claimed (counter base : Nat)
  | dead
deriving DecidableEq, Repr

/-- All eight words of strip `s` read 0 at normal level. -/
def stripBlank (m : Memory) (s : Nat) : Bool :=
  (List.range 8).all (fun k => readNormal m (stripWord s k) == 0#32)

/-- The state of strip `s`: the first matching row of Table 5-2 (R80). -/
def classifyStrip (m : Memory) (s : Nat) : StripClass :=
  if stripBlank m s then .free
  else
    match decodeBase (readNormal m (stripWord s 0)), decodeClaim (readNormal m (stripWord s 1)) with
    | some base, some counter => .claimed counter base
    | _, _ => .dead

/-- Thermometer position `p` of strip `s` reads set at normal level (R79). -/
def positionSet (m : Memory) (s p : Nat) : Bool :=
  (readNormal m (stripWord s (2 + p / 32))).getLsbD (p % 32)

/-- The number of thermometer cells of strip `s` that read set (R82). -/
def stripOnes (m : Memory) (s : Nat) : Nat :=
  (List.range Config.stripPositions).countP (positionSet m s)

/-- The highest set position of strip `s`, none when no cell reads set (R82). -/
def stripHighest (m : Memory) (s : Nat) : Option Nat :=
  (List.range Config.stripPositions).foldl (fun best p => if positionSet m s p then some p else best) none

end Sys2Proof.Machine
end

