-- ==== Sys2Proof/Machine/Flags.lean ====
section
/-! DEFINITION. The marks of the policy copy (chapter 6, Table 12-1), the alert enables and the
port-status byte (Table 12-8). -/

namespace Sys2Proof.Machine

/-! ### The ports -/

/-- The state of port `p`. -/
def State.port (s : State) : Port → PortState
  | .a => s.portA
  | .b => s.portB
  | .c => s.portC

/-- `s` with the state of port `p` replaced. -/
def State.setPort (s : State) (p : Port) (q : PortState) : State :=
  match p with
  | .a => { s with portA := q }
  | .b => { s with portB := q }
  | .c => { s with portC := q }

/-! ### The policy copy -/

/-- Word `i` of the policy copy (R98). -/
def copyWord (s : State) (i : Nat) : Word := s.policy.getD i 0#32

/-- The group of a key (R97). -/
def groupOf (key : Nat) : Nat := key / 256

/-- The option-block word of a policy target (R7, Table 6-4). -/
def targetIndex : PolicyTarget → Nat
  | .group g => 2 + g
  | .counter c => 18 + c

/-- The policy word of a key's group in the copy. -/
def keyPolicy (s : State) (key : Nat) : Word := copyWord s (targetIndex (.group (groupOf key)))

/-- The policy word of a counter in the copy. -/
def counterPolicy (s : State) (c : Nat) : Word := copyWord s (targetIndex (.counter c))

/-- The deny-read mark of port `p` in a policy word (Table 12-1). -/
def denyRead (v : Word) (p : Port) : Bool := v.getLsbD (portIndex p)

/-- The deny-write (group) or deny-advance (counter) mark of port `p` (Table 12-1). -/
def denyWrite (v : Word) (p : Port) : Bool := v.getLsbD (3 + portIndex p)

/-- The frozen mark (Table 12-1). -/
def frozenMark (v : Word) : Bool := v.getLsbD 6

/-- The marks a group or counter policy word has: bits 0 to 6 (Table 12-1). -/
def policyMarks (v : Word) : Byte := (v &&& 0x7F#32).setWidth 8

/-- The marks of the option word: bits 0 to 4 (Table 12-1). -/
def optionMarks (v : Word) : Byte := (v &&& 0x1F#32).setWidth 8

/-- The life-cycle is CLOSED (R105). -/
def isClosed (s : State) : Bool := copyWord s 0 != 0#32

/-- The life-cycle byte (Table 12-5). -/
def lifeCycleByte (s : State) : Byte := flagByte (isClosed s)

/-- The alert-level mark of port `p`: its line is in LEVEL mode (R102). -/
def levelMode (s : State) (p : Port) : Bool := (copyWord s 1).getLsbD (portIndex p)

/-- The port-C-read-only mark (R103). -/
def portCReadOnly (s : State) : Bool := (copyWord s 1).getLsbD 3

/-- The auto-repair-off mark (R104). -/
def autoRepairOff (s : State) : Bool := (copyWord s 1).getLsbD 4

/-- The port's deny-read mark for a key's group is in force (R100). -/
def keyDenied (s : State) (p : Port) (key : Nat) : Bool := denyRead (keyPolicy s key) p

/-- The port's deny-read mark for a counter is in force (R100). -/
def counterDenied (s : State) (p : Port) (c : Nat) : Bool := denyRead (counterPolicy s c) p

/-- The refusal that a policy word gives a writer (R24, R101): its own deny mark, else the frozen mark. -/
def writeRefusal (v : Word) (p : Port) : Option Code :=
  if denyWrite v p then some .denied else if frozenMark v then some .frozen else none

/-- The marks of a policy word that port `p` may name in a RESTRICT while the part is CLOSED (R106):
those in force, its own deny marks, and frozen where it may currently write. -/
def restrictAllowed (v : Word) (p : Port) : Byte :=
  policyMarks v ||| (1#8 <<< portIndex p) ||| (1#8 <<< (3 + portIndex p)) |||
    (if denyWrite v p then 0#8 else 0x40#8)

/-! ### Alert enables and the port-status byte -/

/-- The mask enables notices of this kind (Table 9-4). -/
def noticeEnabled (mask : BitVec 6) (k : NoticeKind) : Bool := mask.getLsbD (noticeEnableBit k)

/-- The mask enables results (Table 9-4). -/
def resultEnabled (mask : BitVec 6) : Bool := mask.getLsbD resultEnableBit

/-- Enabled work waits at the port: what drives a LEVEL line low (R151). -/
def workWaiting (q : PortState) : Bool :=
  q.ring.any (fun n => noticeEnabled q.mask n.kind) || (!q.results.isEmpty && resultEnabled q.mask)

/-- The slot field of the port-status byte (Table 12-8). -/
def slotBits : Slot → BitVec 2
  | .empty => 0b00#2
  | .working _ => 0b01#2
  | .replyReady => 0b10#2

/-- The notice-and-device field of the port-status byte (Table 12-8, R176). -/
def noticeBits (d : DeviceState) (q : PortState) : BitVec 2 :=
  match d with
  | .mounting => 0b10#2
  | .ready => if q.wrapped then 0b11#2 else if q.ring.isEmpty then 0b00#2 else 0b01#2

/-- The port-status byte (R163, Table 12-8). -/
def portStatusByte (s : State) (p : Port) : Byte :=
  let q := s.port p
  BitVec.ofBool s.pgmEn ++ BitVec.ofBool q.truncated ++ BitVec.ofBool q.discard ++
    BitVec.ofBool (!q.results.isEmpty) ++ noticeBits s.device q ++ slotBits q.slot

end Sys2Proof.Machine
end

