-- ==== Sys2Proof/Machine/Items.lean ====
section
/-! DEFINITION. The items of the wire: the bodies of replies, results and notices (R175, Table 12-7). -/

namespace Sys2Proof.Machine

/-- Bytes with their CRC-8 after them (R173). -/
def withCrc (bs : List Byte) : List Byte := bs ++ [crc8 bs]

/-- A reply or result item on the wire: code, command code, tag, body length, body, CRC-8 (R175). -/
def itemBytes (i : Item) : List Byte :=
  withCrc (codeByte i.code :: i.cmd :: i.tag :: BitVec.ofNat 8 i.body.length :: i.body)

/-- The item NONE (R175). -/
def noneBytes : List Byte := itemBytes ⟨.none, 0x00#8, 0x00#8, []⟩

/-- The item PENDING of the READ in hand (R160, R175). -/
def pendingBytes (r : ReadInHand) : List Byte := itemBytes ⟨.pending, commandCode .read, r.tag, []⟩

/-- A notice item of 10 bytes (R175). -/
def noticeBytes (n : Notice) (wrapped : Bool) : List Byte :=
  withCrc (noticeByte n.kind :: flagByte wrapped :: leBytes n.id 2 ++ wordBytes n.value ++ [originByte n.origin])

/-- The body of a result (Table 12-7). -/
def resultBody : ResultBody → List Byte
  | .job seq reached retireWeak attempts =>
      leBytes seq 4 ++ leBytes reached 3 ++ [flagByte retireWeak, BitVec.ofNat 8 attempts]
  | .audit findings added dropped => leBytes findings 2 ++ leBytes added 2 ++ leBytes dropped 2

/-- The item of a result (R175). -/
def resultItem (r : Result) : Item := ⟨r.code, commandCode r.cmd, r.tag, resultBody r.body⟩

/-- The port-status item: the byte and its CRC-8 (R176). -/
def portStatusBytes (s : State) (p : Port) : List Byte := withCrc [portStatusByte s p]

/-- What the host clocks out as byte `i` of a fetch: the item's byte, FF hex beyond its end (R155, R156). -/
def outputByte (q : PortState) (i : Nat) : Byte := q.output.getD i 0xFF#8

/-- The payload length of an entry: 4W − pad (R134). -/
def payloadLength (e : DirEntry) : Nat := 4 * e.w - e.pad

/-- READ, DATA (Table 12-7). -/
def readDataBody (e : DirEntry) (payload : List Byte) : List Byte :=
  leBytes e.key 2 ++ leBytes e.seq 4 ++ [portByte e.writer, BitVec.ofNat 8 (payloadLength e)] ++ payload

/-- READ, DELETED or LOST (Table 12-7). -/
def readGoneBody (e : DirEntry) : List Byte := leBytes e.key 2 ++ leBytes e.seq 4 ++ [portByte e.writer]

/-- INFO, OK (Table 12-7). -/
def infoBody (e : DirEntry) : List Byte :=
  leBytes e.key 2 ++ [entryStateByte e.state] ++ leBytes e.location 2 ++
    [BitVec.ofNat 8 e.w, BitVec.ofNat 8 e.pad] ++ leBytes e.seq 4 ++ [portByte e.writer]

/-- One entry of a LIST page (Table 12-7). -/
def listEntryBody (e : DirEntry) : List Byte :=
  leBytes e.key 2 ++ [entryStateByte e.state] ++ leBytes e.seq 4 ++
    [portByte e.writer, BitVec.ofNat 8 (payloadLength e)]

/-- LIST, OK (Table 12-7). -/
def listBody (page : List DirEntry) (more : Bool) : List Byte :=
  [BitVec.ofNat 8 page.length, flagByte more] ++ page.flatMap listEntryBody

/-- The room of a counter (chapter 5 section 5.3, R138). -/
def counterRoom (e : CounterEntry) : Nat :=
  match e.strip, e.highest with
  | none, _ => 0
  | some _, none => 192
  | some _, some h => 191 - h

/-- COUNT-READ, OK (Table 12-7). -/
def countBody (e : CounterEntry) : List Byte :=
  [BitVec.ofNat 8 e.id] ++ leBytes e.value 3 ++ [BitVec.ofNat 8 (counterRoom e)]

/-- POLICY-READ, OK (R139, Table 12-7). -/
def policyBody (s : State) (t : PolicyTarget) : List Byte :=
  [targetByte t, policyMarks (copyWord s (targetIndex t)), optionMarks (copyWord s 1), lifeCycleByte s]

/-- IDENTIFY, OK (R107, R139, Table 12-7). -/
def identifyBody (s : State) : List Byte :=
  wordBytes (copyWord s 34) ++ wordBytes (copyWord s 35) ++ wordBytes (copyWord s 36) ++
    wordBytes (copyWord s 37) ++ [lifeCycleByte s]

/-- The mount report within STATUS (Table 12-7). -/
def reportBody (r : MountReport) : List Byte :=
  [r.live, r.deleted, r.lost, r.notAdmitted, r.torn, r.tornHeader, r.damaged, r.stale, r.retired,
      r.claimedStrips, r.deadStrips, r.appendPoint, r.freeWords].flatMap (fun n => leBytes n 2) ++
    leBytes r.nextSeq 4 ++ leBytes r.dropped 2 ++ leBytes r.withheld 2

/-- Free words: from the append point to word 16383 inclusive (R50). -/
def freeWords (appendPoint : Nat) : Nat := Config.arrayWords - appendPoint

/-- STATUS, OK, while MOUNTING and while READY (R140, Table 12-7). -/
def statusBody (s : State) : List Byte :=
  match s.device with
  | .mounting => [deviceByte .mounting, phaseByte s.mount.phase]
  | .ready =>
      [deviceByte .ready, phaseByte s.mount.phase] ++ leBytes s.log.appendPoint 2 ++
        leBytes (freeWords s.log.appendPoint) 2 ++ leBytes s.log.nextSeq 4 ++
        leBytes s.log.stripCursor 2 ++ leBytes s.directory.length 2 ++
        [BitVec.ofNat 8 s.jobs.length, engineStateByte s.engine.state, flagByte s.pgmEn,
          BitVec.ofNat 8 s.repair.entries.length] ++
        leBytes s.repair.done 2 ++ leBytes s.repair.failed 2 ++ [flagByte s.audit.running] ++
        reportBody s.mount.report

/-- One finding within AUDIT-REPORT (Table 12-7). -/
def findingBody (f : Finding) : List Byte := leBytes f.word 2 ++ [regionByte f.region] ++ leBytes f.id 2

/-- AUDIT-REPORT, OK (R141, Table 12-7). -/
def auditReportBody (a : AuditScanner) : List Byte :=
  [flagByte a.running, BitVec.ofNat 8 a.findings.length] ++ leBytes a.overflow 2 ++
    a.findings.flatMap findingBody

end Sys2Proof.Machine
end

