-- ==== Sys2Proof/Machine/Ops.lean ====
section
/-! DEFINITION. The shared operations on ports, notices, results, the directory, the counter table, the
repair list and the arbiter's claims. -/

namespace Sys2Proof.Machine

/-- Every port, in the order A, B, C. -/
def allPorts : List Port := [.a, .b, .c]

/-! ### Attention lines (R151 to R153) -/

/-- In LEVEL mode the line of port `p` is judged from the work waiting; in PULSE mode nothing happens (R151). -/
def judgeLevel (p : Port) (s : State) : State :=
  if levelMode s p then s.setPort p { s.port p with lineLow := workWaiting (s.port p) } else s

/-- A pulse is due at port `p`: it starts one, or merges into the one in progress (R152). -/
def startPulse (p : Port) (s : State) : State :=
  s.setPort p { s.port p with pulseActive := true, lineLow := true }

/-- What the arrival of a notice or result does to the line of port `p`; `enabled` says whether its
enable is on (R151, R152). -/
def arrivalLine (p : Port) (enabled : Bool) (s : State) : State :=
  if levelMode s p then judgeLevel p s else if enabled then startPulse p s else s

/-- Port `p` changes to LEVEL mode: a pulse in progress ends and the line is judged at once (R102, R153). -/
def enterLevel (p : Port) (s : State) : State :=
  judgeLevel p (s.setPort p { s.port p with pulseActive := false })

/-! ### Notices (R145 to R148) -/

/-- A notice at the end of a ring; at a full ring the oldest is dropped and the wrapped flag set (R148). -/
def pushRing (q : PortState) (n : Notice) : PortState :=
  if Config.ringMax ≤ q.ring.length then { q with ring := q.ring.drop 1 ++ [n], wrapped := true }
  else { q with ring := q.ring ++ [n] }

/-- A notice arrives at port `p`: its ring takes it and its line moves, in one event (R146, R151, R152). -/
def arriveNotice (n : Notice) (p : Port) (s : State) : State :=
  arrivalLine p (noticeEnabled (s.port p).mask n.kind) (s.setPort p (pushRing (s.port p) n))

/-- Port `p` receives notice `n`, by its kind (R146). -/
def receivesNotice (s : State) (n : Notice) (p : Port) : Bool :=
  match n.kind with
  | .keyWritten => decide (⟨.key, n.id⟩ ∈ (s.port p).subs) && n.origin != some p && !keyDenied s p n.id
  | .keyDeleted => decide (⟨.key, n.id⟩ ∈ (s.port p).subs) && n.origin != some p && !keyDenied s p n.id
  | .counterMoved => decide (⟨.counter, n.id⟩ ∈ (s.port p).subs) && n.origin != some p && !counterDenied s p n.id
  | .policyChanged => true
  | .mountDone => true

/-- The distributor posts a notice to the ring of each receiving port (R145, R146). -/
def postNotice (n : Notice) (s : State) : State :=
  (allPorts.filter (receivesNotice s n)).foldl (fun t p => arriveNotice n p t) s

/-! ### Results (R37, R170) -/

/-- A result joins the tail of port `p`'s result queue and moves its line (R37, R151, R152). -/
def appendResult (p : Port) (r : Result) (s : State) : State :=
  arrivalLine p (resultEnabled (s.port p).mask)
    (s.setPort p { s.port p with results := (s.port p).results ++ [r] })

/-- The outstanding count of port `p` falls by one (R26). -/
def lowerOutstanding (p : Port) (s : State) : State :=
  s.setPort p { s.port p with outstanding := (s.port p).outstanding - 1 }

/-- The end of a job or audit of port `p`: the result is appended, or discarded for an orphan, and the
outstanding count falls (R37, R39, R170). -/
def deliverResult (p : Port) (orphan : Bool) (r : Result) (s : State) : State :=
  lowerOutstanding p (if orphan then s else appendResult p r s)

/-! ### Replies (R131, R158) -/

/-- A reply is placed in port `p`'s buffer and its slot goes to REPLY_READY. -/
def answer (p : Port) (cmd tag : Byte) (code : Code) (body : List Byte) (s : State) : State :=
  s.setPort p { s.port p with slot := .replyReady, reply := some ⟨code, cmd, tag, body⟩ }

/-! ### The directory (R65 to R71) -/

/-- The entry of a key (R69). -/
def dirFind (d : List DirEntry) (key : Nat) : Option DirEntry := d.find? (fun e => e.key == key)

/-- A commit at the directory: the key's entry is replaced, or inserted in key order (R67). -/
def dirPut : List DirEntry → DirEntry → List DirEntry
  | [], e => [e]
  | x :: rest, e =>
      if e.key < x.key then e :: x :: rest
      else if e.key = x.key then e :: rest
      else x :: dirPut rest e

/-! ### The counter table (R82) -/

/-- The entry of a counter with no strip (R82). -/
def noStripEntry (c : Nat) : CounterEntry := ⟨c, none, 0, 0, none, 0⟩

/-- The entry of counter `c` (R83). -/
def counterEntry (s : State) (c : Nat) : CounterEntry :=
  (s.counters.find? (fun e => e.id == c)).getD (noStripEntry c)

/-- Counter `c`'s entry replaced. -/
def setCounter (e : CounterEntry) (s : State) : State :=
  { s with counters := s.counters.map (fun x => if x.id = e.id then e else x) }

/-- A counter value, base plus ones; beyond 24 bits the spec states none (log entry 6). -/
def counterField (n : Nat) : Nat :=
  if n ≤ Config.counterMax then n else (Config.counterBeyondRange n).toNat

/-- A sequence number; beyond 32 bits the spec states none (log entry 6). -/
def sequenceField (n : Nat) : Nat :=
  if n ≤ Config.sequenceMax then n else (Config.sequenceBeyondRange n).toNat

/-! ### The repair list (R123, R124) -/

/-- Answers to an offer (Table 7-6). -/
inductive OfferAnswer where
  | present
  | full
  | added
deriving DecidableEq, Repr

/-- The answer a repair list gives to an offer (Table 7-6). -/
def offerAnswer (r : RepairList) (e : RepairEntry) : OfferAnswer :=
  if r.entries.any (fun x => x.word == e.word) then .present
  else if Config.repairMax ≤ r.entries.length then .full
  else .added

/-- The repair list after an offer (R124). -/
def offer (r : RepairList) (e : RepairEntry) : RepairList :=
  match offerAnswer r e with
  | .added => { r with entries := r.entries ++ [e] }
  | .present => r
  | .full => r

/-- A repair count raised by one, held at 65,535 (R123). -/
def countRepair (n : Nat) : Nat := if n < 65535 then n + 1 else n

/-! ### The arbiter's claims (R16) -/

/-- A claimant's claim is pending. -/
def claimPending (c : Claims) : Claimant → Bool
  | .engine => c.engine
  | .reader .a => c.readerA
  | .reader .b => c.readerB
  | .reader .c => c.readerC
  | .audit => c.audit

/-- A claimant's claim entered or removed. -/
def markClaim (c : Claims) (who : Claimant) (on : Bool) : Claims :=
  match who with
  | .engine => { c with engine := on }
  | .reader .a => { c with readerA := on }
  | .reader .b => { c with readerB := on }
  | .reader .c => { c with readerC := on }
  | .audit => { c with audit := on }

/-- The port after `p` in the cyclic order A, B, C (R18). -/
def nextPort : Port → Port
  | .a => .b
  | .b => .c
  | .c => .a

/-- The pending reader that comes first, starting after the last-served (R18). -/
def chooseReader (a : Arbiter) : Option Port :=
  [nextPort a.lastServed, nextPort (nextPort a.lastServed), a.lastServed].find?
    (fun p => claimPending a.claims (.reader p))

/-- The claimant a free array is granted to (Table 1-12). -/
def chooseClaimant (a : Arbiter) : Option Claimant :=
  match a.claims.engine, chooseReader a with
  | true, none => some .engine
  | false, some p => some (.reader p)
  | true, some p => if a.lastClass = .engine then some (.reader p) else some .engine
  | false, none => if a.claims.audit then some .audit else none

/-- A claim entered. At a free array the grant among the claims already pending was made at once, so it is
decided before the new claim counts, and the new claim waits for the release (R16, R17). -/
def claimEntered (who : Claimant) (a : Arbiter) : Arbiter :=
  { a with
    claims := markClaim a.claims who true
    decided := if a.holder = .none ∧ a.decided = none then chooseClaimant a else a.decided }

/-- A claimant enters its claim (R16). -/
def enterClaim (who : Claimant) (s : State) : State := { s with arbiter := claimEntered who s.arbiter }

/-- The holder releases the array (R13, R133, R167). -/
def releaseArray (s : State) : State := { s with arbiter := { s.arbiter with holder := .none } }

/-! ### Orphans (R39, R171) -/

/-- Port `p`'s job gets its orphan flag set (R39). -/
def orphanJob (p : Port) (j : Job) : Job := if j.port = p then { j with orphan := true } else j

/-- Every outstanding job of port `p`, queued or active, and its running audit are orphaned (R39, R171). -/
def orphanPort (p : Port) (s : State) : State :=
  { s with
    jobs := s.jobs.map (orphanJob p)
    engine := { s.engine with job := s.engine.job.map (orphanJob p) }
    audit :=
      if s.audit.running ∧ s.audit.requester.map (fun r => r.1) = some p then { s.audit with orphan := true }
      else s.audit }

end Sys2Proof.Machine
end

