-- ==== Sys2Proof/Machine/AuditScan.lean ====
section
/-! DEFINITION. The audit scanner: its walk, its findings, its completion (chapter 11). -/

namespace Sys2Proof.Machine

/-- The audit completes: the scanner goes IDLE, the result is appended or discarded, the outstanding
count falls (R170). -/
def completeAudit (s : State) : State :=
  let a := s.audit
  let s1 := { s with audit := { a with running := false } }
  match a.requester with
  | none => s1
  | some (p, tag) =>
      deliverResult p a.orphan
        ⟨.ok, tag, .audit, .audit (a.findings.length + a.overflow) a.added a.dropped⟩ s1

/-- The scanner has the next unit to examine and enters its claim, or ends a stage, or completes (R167,
R170): in stage STRIPS. -/
def nextStrip (s : State) : State :=
  if s.audit.capturedCursor.getD 0 ≤ s.audit.position then completeAudit s else enterClaim .audit s

/-- The scanner leaves stage RECORDS for strip 0 (R167). -/
def startStrips (s : State) : State :=
  nextStrip { s with audit := { s.audit with stage := .strips, position := 0 } }

/-- The scanner goes on from its present position (R167). -/
def continueAudit (s : State) : State :=
  match s.audit.stage with
  | .records =>
      if s.audit.capturedAppend.getD 0 ≤ s.audit.position then startStrips s else enterClaim .audit s
  | .strips => nextStrip s

/-- The acceptance event: RUNNING, the captures, empty findings and counts, the walk at word 4134 (R166). -/
def startAudit (p : Port) (tag : Byte) (touchUp : Bool) (s : State) : State :=
  continueAudit
    { s with
      audit :=
        { running := true, requester := some (p, tag), touchUp := touchUp, orphan := false,
          capturedAppend := some s.log.appendPoint, capturedCursor := some s.log.stripCursor,
          stage := .records, position := Config.recordStart, findings := [], overflow := 0, added := 0,
          dropped := 0 } }

/-- A finding joins the list, or raises the overflow count (R168). -/
def addFinding (a : AuditScanner) (f : Finding) : AuditScanner :=
  if a.findings.length < Config.findingsMax then { a with findings := a.findings ++ [f] }
  else { a with overflow := a.overflow + 1 }

/-- The finding may be offered: a strip finding always, a record finding when its key has an entry (R169). -/
def mayOffer (s : State) (f : Finding) : Bool :=
  match f.region with
  | .strip => true
  | .record => (dirFind s.directory f.id).isSome

/-- The added and dropped counts after an offer's answer (R169). -/
def countAnswer (a : AuditScanner) (answer : OfferAnswer) : AuditScanner :=
  match answer with
  | .added => { a with added := a.added + 1 }
  | .full => { a with dropped := a.dropped + 1 }
  | .present => a

/-- A finding is made: listed or counted, and offered for touch-up when the request asks for it (R168,
R169). -/
def makeFinding (s : State) (f : Finding) : State :=
  let a := addFinding s.audit f
  if a.touchUp && mayOffer s f then
    { s with
      audit := countAnswer a (offerAnswer s.repair ⟨.touchUp, f.word⟩)
      repair := offer s.repair ⟨.touchUp, f.word⟩ }
  else { s with audit := a }

/-- The words of a range whose two values differ (R168). -/
def weakWords (m : Memory) (first count : Nat) : List Nat :=
  ((List.range count).map (fun i => first + i)).filter (fun i => readNormal m i != readMargin m i)

/-- The compared unit's findings, in ascending word order (R168). -/
def compareUnit (first count : Nat) (region : Region) (id : Nat) (s : State) : State :=
  (weakWords s.array first count).foldl (fun t i => makeFinding t ⟨i, region, id⟩) s

/-- The position is set. -/
def setPosition (n : Nat) (s : State) : State := { s with audit := { s.audit with position := n } }

/-- A record examined in its grant: every word but the retire word is compared when it competes (R167,
R168). -/
def compareRecord (h : Nat) (s : State) : State :=
  match spanHeader s.array h with
  | some hdr =>
      if competes (classifyRecord s.array h) then compareUnit h (spanLength hdr.w - 1) .record hdr.key s else s
  | none => s

/-- The record unit at `h` ends: stage RECORDS ends at a BLANK header or at a record that would pass the
captured append point; otherwise the record is examined and the walk steps (R167). -/
def endRecordUnit (h : Nat) (s : State) : State :=
  if readNormal s.array h = 0#32 ∨ s.audit.capturedAppend.getD 0 < h + recordLength s.array h then
    startStrips s
  else continueAudit (setPosition (h + recordLength s.array h) (compareRecord h s))

/-- The strip unit `n` ends (R167, R168). -/
def endStripUnit (n : Nat) (s : State) : State :=
  let s1 :=
    match classifyStrip s.array n with
    | .claimed counter _ => compareUnit (stripWord n 0) 8 .strip counter s
    | .free => s
    | .dead => s
  continueAudit (setPosition (n + 1) s1)

/-- The last word of the unit a grant examines first exists (R6). -/
def auditUnitExists (a : AuditScanner) : Bool :=
  match a.stage with
  | .records => decide (a.position < Config.arrayWords)
  | .strips => decide (stripWord a.position 7 < Config.arrayWords)

/-- The unit ends and the array is released (R167). -/
def endAuditUnit (s : State) : State :=
  releaseArray
    (match s.audit.stage with
      | .records => endRecordUnit s.audit.position s
      | .strips => endStripUnit s.audit.position s)

/-- AUDIT_UNIT_END (R168). -/
def execAuditUnitEnd (s : State) : Host.Outcome State Fault Refusal :=
  if s.arbiter.holder = .audit then
    if auditUnitExists s.audit then .next (endAuditUnit s) else .fault .noSuchWord
  else .next s

end Sys2Proof.Machine
end

