-- ==== Sys2Proof/Machine/Checks.lean ====
section
/-! DEFINITION. The policy, life-cycle and quota checks that ports and engine share (R24 to R26, R106). -/

namespace Sys2Proof.Machine

/-- Acceptance checks 3 and 4, and start check 2: port-C-read-only, then the access policy (R24). -/
def accessRefusal (s : State) (p : Port) (k : JobKind) : Option Code :=
  if p = .c ∧ portCReadOnly s then some .denied
  else
    match k with
    | .append key _ _ => writeRefusal (keyPolicy s key) p
    | .delete key _ => writeRefusal (keyPolicy s key) p
    | .countAdvance c _ => writeRefusal (counterPolicy s c) p
    | .countRaise c _ => writeRefusal (counterPolicy s c) p
    | .restrict _ _ => none
    | .setOption _ => none
    | .close => none

/-- Acceptance check 5 and start check 3: the life-cycle (R25, R106). -/
def lifeCycleRefusal (s : State) (p : Port) (k : JobKind) : Option Code :=
  if isClosed s then
    match k with
    | .append _ _ _ => none
    | .delete _ _ => none
    | .countAdvance _ _ => none
    | .countRaise _ _ => none
    | .restrict t marks =>
        if marks &&& ~~~ restrictAllowed (copyWord s (targetIndex t)) p = 0#8 then none else some .locked
    | .setOption _ => some .locked
    | .close => some .locked
  else none

/-- Acceptance check 6: the port's share of outstanding jobs and waiting results (R26). -/
def quotaReached (q : PortState) : Bool :=
  decide (3 ≤ q.outstanding) || decide (4 ≤ q.outstanding + q.results.length)

/-- The acceptance checks of a job frame, in the order of Table 2-4; the first that fails gives the
refusal (R22). `kind = none` is a malformed frame (R23). -/
def acceptanceRefusal (s : State) (p : Port) (kind : Option JobKind) : Option Code :=
  if s.device = .mounting then some .mounting
  else
    match kind with
    | none => some .badRequest
    | some k =>
        match accessRefusal s p k, lifeCycleRefusal s p k with
        | some code, _ => some code
        | none, some code => some code
        | none, none =>
            if quotaReached (s.port p) then some .quota
            else if Config.queueMax ≤ s.jobs.length then some .queueFull
            else none

end Sys2Proof.Machine
end

