-- ==== Sys2Proof/Machine/Operands.lean ====
section
/-! DEFINITION. The parameters of each command: their lengths (Table 12-6) and ranges (R23, R131, R143,
R174). `none` is a malformed frame, answered BAD_REQUEST. -/

namespace Sys2Proof.Machine

/-- No parameters (STATUS, IDENTIFY, AUDIT-REPORT, PORT-RESET). -/
def parseNothing : List Byte → Option Unit
  | [] => some ()
  | _ => none

/-- A key, 1 to 4094 (READ, INFO, LIST). -/
def parseKey : List Byte → Option Nat
  | [k0, k1] =>
      let key := leNat [k0, k1]
      if 1 ≤ key ∧ key ≤ 4094 then some key else none
  | _ => none

/-- A counter id, 0 to 15 (COUNT-READ). -/
def parseCounter : List Byte → Option Nat
  | [c] => if c.toNat ≤ 15 then some c.toNat else none
  | _ => none

/-- The policy target of a byte (Table 12-5). -/
def targetOf (b : Byte) : Option PolicyTarget :=
  if b.toNat ≤ 15 then some (.group b.toNat)
  else if b.toNat ≤ 31 then some (.counter (b.toNat - 16))
  else none

/-- A policy target (POLICY-READ). -/
def parseTarget : List Byte → Option PolicyTarget
  | [t] => targetOf t
  | _ => none

/-- A subscription's kind and id (SUBSCRIBE, UNSUBSCRIBE; R143, Table 9-1). -/
def parseSubscription : List Byte → Option Subscription
  | [kind, i0, i1] =>
      let id := leNat [i0, i1]
      if kind = 0x00#8 ∧ 1 ≤ id ∧ id ≤ 4094 then some ⟨.key, id⟩
      else if kind = 0x01#8 ∧ id ≤ 15 then some ⟨.counter, id⟩
      else none
  | _ => none

/-- A full alert mask; bit 6 or 7 set is malformed (R150, R174). -/
def parseMask : List Byte → Option (BitVec 6)
  | [m] => if m.extractLsb' 6 2 = 0#2 then some (m.setWidth 6) else none
  | _ => none

/-- A flag byte: 00 clear, 01 set (Table 12-5). -/
def flagOf (b : Byte) : Option Bool :=
  if b = 0x00#8 then some false else if b = 0x01#8 then some true else none

/-- The touch-up flag (AUDIT; R166). -/
def parseTouchUp : List Byte → Option Bool
  | [b] => flagOf b
  | _ => none

/-- The expected sequence: with the present byte 00 it is absent and its four bytes are not examined (R174). -/
def expectedOf (present : Byte) (seq : List Byte) : Option (Option Nat) :=
  (flagOf present).map (fun on => if on then some (leNat seq) else none)

/-- APPEND: key, expected present, expected sequence, payload of 0 to 236 bytes (R23, R174). -/
def parseAppend : List Byte → Option JobKind
  | k0 :: k1 :: present :: e0 :: e1 :: e2 :: e3 :: payload =>
      match parseKey [k0, k1], expectedOf present [e0, e1, e2, e3] with
      | some key, some expected => if payload.length ≤ 236 then some (.append key expected payload) else none
      | _, _ => none
  | _ => none

/-- DELETE: key, expected present, expected sequence (R23, R174). -/
def parseDelete : List Byte → Option JobKind
  | [k0, k1, present, e0, e1, e2, e3] =>
      match parseKey [k0, k1], expectedOf present [e0, e1, e2, e3] with
      | some key, some expected => some (.delete key expected)
      | _, _ => none
  | _ => none

/-- COUNT-ADVANCE: counter id, n of 1 to 65,535 (R23). -/
def parseCountAdvance : List Byte → Option JobKind
  | [c, n0, n1] =>
      let n := leNat [n0, n1]
      if c.toNat ≤ 15 ∧ 1 ≤ n then some (.countAdvance c.toNat n) else none
  | _ => none

/-- COUNT-RAISE: counter id, target of 0 to 16,777,215 (R23). -/
def parseCountRaise : List Byte → Option JobKind
  | [c, v0, v1, v2] => if c.toNat ≤ 15 then some (.countRaise c.toNat (leNat [v0, v1, v2])) else none
  | _ => none

/-- RESTRICT: policy target, marks with bit 7 clear and some bit set (R23, R174). -/
def parseRestrict : List Byte → Option JobKind
  | [t, marks] =>
      match targetOf t with
      | some target =>
          if marks.getLsbD 7 = false ∧ marks ≠ 0#8 then some (.restrict target marks) else none
      | none => none
  | _ => none

/-- SET-OPTION: marks with bits 5 to 7 clear and some bit set (R23, R174). -/
def parseSetOption : List Byte → Option JobKind
  | [marks] => if marks.extractLsb' 5 3 = 0#3 ∧ marks ≠ 0#8 then some (.setOption marks) else none
  | _ => none

/-- CLOSE: no parameters (R23). -/
def parseClose : List Byte → Option JobKind
  | [] => some .close
  | _ => none

end Sys2Proof.Machine
end

