-- ==== Sys2Proof/Machine/Queries.lean ====
section
/-! DEFINITION. What each query answers (chapter 8): a reply code and body from the state as it stands. -/

namespace Sys2Proof.Machine

/-- The first two checks of R131 for a query that is refused while MOUNTING, then its own answer. -/
def queryAnswer {α : Type} (s : State) (param : Option α) (own : α → Code × List Byte) : Code × List Byte :=
  if s.device = .mounting then (.mounting, [])
  else
    match param with
    | none => (.badRequest, [])
    | some x => own x

/-- INFO (R136). -/
def infoAnswer (s : State) (p : Port) (params : List Byte) : Code × List Byte :=
  queryAnswer s (parseKey params) (fun key =>
    if keyDenied s p key then (.denied, [])
    else
      match dirFind s.directory key with
      | none => (.notFound, [])
      | some e => (.ok, infoBody e))

/-- The entries a LIST enumerates and the port may read, in ascending key order (R71, R100). -/
def listable (s : State) (p : Port) (start : Nat) : List DirEntry :=
  s.directory.filter (fun e => decide (start ≤ e.key) && !keyDenied s p e.key)

/-- LIST: the first 16 of them, and whether more follow (R137). -/
def listAnswer (s : State) (p : Port) (params : List Byte) : Code × List Byte :=
  queryAnswer s (parseKey params) (fun start =>
    let readable := listable s p start
    (.ok, listBody (readable.take 16) (decide (16 < readable.length))))

/-- COUNT-READ (R138). -/
def countReadAnswer (s : State) (p : Port) (params : List Byte) : Code × List Byte :=
  queryAnswer s (parseCounter params) (fun c =>
    if counterDenied s p c then (.denied, []) else (.ok, countBody (counterEntry s c)))

/-- POLICY-READ, answered to every port (R139). -/
def policyReadAnswer (s : State) (_ : Port) (params : List Byte) : Code × List Byte :=
  queryAnswer s (parseTarget params) (fun t => (.ok, policyBody s t))

/-- STATUS, answered in both device states (R131, R140). -/
def statusAnswer (s : State) (_ : Port) (params : List Byte) : Code × List Byte :=
  match parseNothing params with
  | none => (.badRequest, [])
  | some _ => (.ok, statusBody s)

/-- IDENTIFY, answered to every port (R139). -/
def identifyAnswer (s : State) (_ : Port) (params : List Byte) : Code × List Byte :=
  queryAnswer s (parseNothing params) (fun _ => (.ok, identifyBody s))

/-- AUDIT-REPORT, answered to every port (R141). -/
def auditReportAnswer (s : State) (_ : Port) (params : List Byte) : Code × List Byte :=
  queryAnswer s (parseNothing params) (fun _ => (.ok, auditReportBody s.audit))

end Sys2Proof.Machine
end

