-- ==== Sys2Proof/Machine/Handlers.lean ====
section
/-! DEFINITION. What a taken frame of good form does, command by command (Table 10-3, R159). -/

namespace Sys2Proof.Machine

/-- What a command does at port `p` with a frame's tag and parameters. -/
abbrev Handler := Port → Byte → List Byte → State → State

/-- A query other than READ: its whole reply is built in this event (R131). -/
def handleQuery (cmd : Command) (ans : State → Port → List Byte → Code × List Byte) : Handler :=
  fun p tag params s => answer p (commandCode cmd) tag (ans s p params).1 (ans s p params).2 s

/-- READ: after its checks the slot stays WORKING with no reply, and the reader enters its claim (R131,
R132). -/
def handleRead : Handler := fun p tag params s =>
  if s.device = .mounting then answer p (commandCode .read) tag .mounting [] s
  else
    match parseKey params with
    | none => answer p (commandCode .read) tag .badRequest [] s
    | some key =>
        enterClaim (.reader p) (s.setPort p { s.port p with slot := .working ⟨tag, key⟩, reply := none })

/-- The deny-read mark that bears on a subscription (R143). -/
def subscriptionDenied (s : State) (p : Port) (x : Subscription) : Bool :=
  match x.kind with
  | .key => keyDenied s p x.id
  | .counter => counterDenied s p x.id

/-- SUBSCRIBE (R143). -/
def handleSubscribe : Handler := fun p tag params s =>
  let reply := fun code t => answer p (commandCode .subscribe) tag code [] t
  if s.device = .mounting then reply .mounting s
  else
    match parseSubscription params with
    | none => reply .badRequest s
    | some x =>
        if subscriptionDenied s p x then reply .denied s
        else if x ∈ (s.port p).subs then reply .ok s
        else if Config.subscriptionMax ≤ (s.port p).subs.length then reply .tableFull s
        else reply .ok (s.setPort p { s.port p with subs := (s.port p).subs ++ [x] })

/-- UNSUBSCRIBE (R144). -/
def handleUnsubscribe : Handler := fun p tag params s =>
  let reply := fun code t => answer p (commandCode .unsubscribe) tag code [] t
  if s.device = .mounting then reply .mounting s
  else
    match parseSubscription params with
    | none => reply .badRequest s
    | some x =>
        if x ∈ (s.port p).subs then
          reply .ok (s.setPort p { s.port p with subs := (s.port p).subs.filter (fun y => y ≠ x) })
        else reply .notFound s

/-- SET-ALERT-MASK: the mask is replaced and a LEVEL line judged again (R150, R151). -/
def handleSetAlertMask : Handler := fun p tag params s =>
  let reply := fun code t => answer p (commandCode .setAlertMask) tag code [] t
  if s.device = .mounting then reply .mounting s
  else
    match parseMask params with
    | none => reply .badRequest s
    | some m => reply .ok (judgeLevel p (s.setPort p { s.port p with mask := m }))

/-- The port state PORT-RESET leaves, its reply apart (R164, fourth column of Table 10-1). -/
def resetPortState (q : PortState) : PortState :=
  { q with
    results := [], ring := [], wrapped := false, subs := [], mask := 0x3F#6, pulseActive := false,
    lineLow := false, discard := false, truncated := false }

/-- PORT-RESET (R164). -/
def handlePortReset : Handler := fun p tag params s =>
  let reply := fun code t => answer p (commandCode .portReset) tag code [] t
  if s.device = .mounting then reply .mounting s
  else
    match parseNothing params with
    | none => reply .badRequest s
    | some _ => reply .ok (orphanPort p (s.setPort p (resetPortState (s.port p))))

/-- A job accepted at port `p`: its record joins the queue's tail and the outstanding count rises (R27). -/
def acceptJob (p : Port) (tag : Byte) (k : JobKind) (s : State) : State :=
  { s.setPort p { s.port p with outstanding := (s.port p).outstanding + 1 } with
    jobs := s.jobs ++ [⟨k, p, tag, false⟩] }

/-- A job frame: the acceptance checks, then the refusal or the queue (R22, R27). -/
def handleJob (cmd : Command) (parse : List Byte → Option JobKind) : Handler := fun p tag params s =>
  match acceptanceRefusal s p (parse params), parse params with
  | some code, _ => answer p (commandCode cmd) tag code [] s
  | none, some k => answer p (commandCode cmd) tag .accepted [] (acceptJob p tag k s)
  | none, none => answer p (commandCode cmd) tag .badRequest [] s

/-- AUDIT (R166). -/
def handleAudit : Handler := fun p tag params s =>
  let reply := fun code t => answer p (commandCode .audit) tag code [] t
  if s.device = .mounting then reply .mounting s
  else
    match parseTouchUp params with
    | none => reply .badRequest s
    | some touchUp =>
        if s.audit.running then reply .auditBusy s
        else if quotaReached (s.port p) then reply .quota s
        else
          startAudit p tag touchUp
            (reply .accepted (s.setPort p { s.port p with outstanding := (s.port p).outstanding + 1 }))

/-- A command code outside Table 12-3 (R159). -/
def handleUnknown (code : Byte) : Handler := fun p tag _ s =>
  answer p code tag (if s.device = .mounting then .mounting else .badRequest) [] s

/-- The handling of each command of Table 10-3. -/
def handleCommand : Command → Handler
  | .read => handleRead
  | .info => handleQuery .info infoAnswer
  | .list => handleQuery .list listAnswer
  | .countRead => handleQuery .countRead countReadAnswer
  | .policyRead => handleQuery .policyRead policyReadAnswer
  | .status => handleQuery .status statusAnswer
  | .identify => handleQuery .identify identifyAnswer
  | .auditReport => handleQuery .auditReport auditReportAnswer
  | .subscribe => handleSubscribe
  | .unsubscribe => handleUnsubscribe
  | .setAlertMask => handleSetAlertMask
  | .portReset => handlePortReset
  | .append => handleJob .append parseAppend
  | .delete => handleJob .delete parseDelete
  | .countAdvance => handleJob .countAdvance parseCountAdvance
  | .countRaise => handleJob .countRaise parseCountRaise
  | .restrict => handleJob .restrict parseRestrict
  | .setOption => handleJob .setOption parseSetOption
  | .close => handleJob .close parseClose
  | .audit => handleAudit

/-- The handling of a command code (R159). -/
def handleCode (code : Byte) : Handler :=
  match commandOf code with
  | some cmd => handleCommand cmd
  | none => handleUnknown code

end Sys2Proof.Machine
end

