-- ==== Sys2Proof/Machine/Frames.lean ====
section
/-! DEFINITION. How a frame arrives at a port: the bus, the frame's form, the command slot (R155 to R159). -/

namespace Sys2Proof.Machine

/-- The I2C address Port C answers: 10110, then ADR1 and ADR0 as sampled (R156). -/
def portCAddress (s : State) : BitVec 7 := 0b10110#5 ++ s.portCAdr

/-- The port a transaction reaches; none when the part has no supply or another address is sent (R156). -/
def reachedPort (s : State) : Bus → Option Port
  | .spiA => if s.powered then some .a else none
  | .spiB => if s.powered then some .b else none
  | .i2c addr => if s.powered ∧ addr = portCAddress s then some .c else none

/-- A transaction acts on the port it reaches, and on nothing when it reaches none. -/
def onBus (bus : Bus) (s : State) (act : Port → State → State) : State :=
  match reachedPort s bus with
  | none => s
  | some p => act p s

/-- A SEND-FRAME transaction, beside its frame: an SPI port holds no item and shifts out FF hex for every byte
(R155, `outputByte`), and SEND-FRAME becomes Port C's last selector (R156). -/
def noteSendFrame (p : Port) (s : State) : State :=
  match p with
  | .a => { s with portA := { s.portA with output := [] } }
  | .b => { s with portB := { s.portB with output := [] } }
  | .c => { s with lastSelector := .sendFrame }

/-- An incomplete frame sets the truncated flag and nothing else (R157). -/
def setTruncated (p : Port) (s : State) : State := s.setPort p { s.port p with truncated := true }

/-- A complete frame at a WORKING slot is discarded and the discard flag set (R158). -/
def setDiscard (p : Port) (s : State) : State := s.setPort p { s.port p with discard := true }

/-- A frame is taken: an unfetched reply is discarded (R158). -/
def dropReply (p : Port) (s : State) : State := s.setPort p { s.port p with reply := none }

/-- A complete frame of `code`, `tag`, `len` and `rest` arrives at the command slot (R158). -/
def takeComplete (p : Port) (code tag len : Byte) (rest : List Byte) (h : Handler) (s : State) : State :=
  match (s.port p).slot with
  | .working _ => setDiscard p s
  | .empty => judgeForm (dropReply p s)
  | .replyReady => judgeForm (dropReply p s)
where
  /-- The form of a taken frame is judged, then its command runs (R158, R159). -/
  judgeForm (t : State) : State :=
    if frameFault code tag len rest then answer p code tag .frameError [] t
    else h p tag (rest.take len.toNat) t

/-- The end of a SEND-FRAME transaction at port `p` that carried `bytes`; `h` handles the frame's
command code (R157). -/
def receive (p : Port) (bytes : List Byte) (h : Byte → Handler) (s : State) : State :=
  match bytes with
  | code :: tag :: len :: rest =>
      if frameIncomplete bytes then setTruncated p (noteSendFrame p s)
      else takeComplete p code tag len rest (h code) (noteSendFrame p s)
  | _ => setTruncated p (noteSendFrame p s)

/-- The end of a SEND-FRAME transaction on a bus. -/
def sendFrame (bus : Bus) (bytes : List Byte) (h : Byte → Handler) (s : State) : State :=
  onBus bus s (fun p t => receive p bytes h t)

/-- A frame whose command is known from its row. -/
def sendCommand (cmd : Command) (bus : Bus) (f : Frame) (h : Handler) (s : State) : State :=
  sendFrame bus (frameBytes (commandCode cmd) f) (fun _ => h) s

end Sys2Proof.Machine
end

