-- ==== Sys2Proof/Machine/Fetches.lean ====
section
/-! DEFINITION. The fetch selectors and PORT-STATUS, on SPI and through Port C's last selector (R149, R155,
R156, R160 to R163). -/

namespace Sys2Proof.Machine

/-- The item is copied to port `p`'s output, to be clocked out (R162). -/
def output (p : Port) (bytes : List Byte) (s : State) : State :=
  s.setPort p { s.port p with output := bytes }

/-- FETCH-REPLY at port `p` (R160). -/
def fetchReplyAt (p : Port) (s : State) : State :=
  match (s.port p).slot, (s.port p).reply with
  | .replyReady, some i =>
      s.setPort p { s.port p with slot := .empty, reply := none, output := itemBytes i }
  | .replyReady, none => s.setPort p { s.port p with slot := .empty, output := noneBytes }
  | .working r, _ => output p (pendingBytes r) s
  | .empty, _ => output p noneBytes s

/-- FETCH-RESULT at port `p` (R161); a LEVEL line is judged again when one is removed (R151). -/
def fetchResultAt (p : Port) (s : State) : State :=
  match (s.port p).results with
  | [] => output p noneBytes s
  | r :: rest =>
      judgeLevel p (s.setPort p { s.port p with results := rest, output := itemBytes (resultItem r) })

/-- FETCH-NOTICE at port `p` (R149); a LEVEL line is judged again when one is removed (R151). -/
def fetchNoticeAt (p : Port) (s : State) : State :=
  match (s.port p).ring with
  | [] => output p noneBytes s
  | n :: rest =>
      judgeLevel p
        (s.setPort p
          { s.port p with ring := rest, wrapped := false, output := noticeBytes n (s.port p).wrapped })

/-- PORT-STATUS at port `p`: the byte, then the discard and truncated flags cleared (R163, R176). -/
def portStatusAt (p : Port) (s : State) : State :=
  s.setPort p { s.port p with discard := false, truncated := false, output := portStatusBytes s p }

/-- The effect of a selector that fetches; SEND-FRAME as a last selector reads as PORT-STATUS (R156). -/
def fetchEffect (sel : Selector) (p : Port) (s : State) : State :=
  match sel with
  | .fetchReply => fetchReplyAt p s
  | .fetchResult => fetchResultAt p s
  | .fetchNotice => fetchNoticeAt p s
  | .portStatus => portStatusAt p s
  | .sendFrame => portStatusAt p s

/-- The selector that rules a fetch at a port: the one sent on SPI (R155), the last selector on Port C,
where a read takes its effect (R156). -/
def rulingSelector (s : State) (sel : Selector) : Port → Selector
  | .a => sel
  | .b => sel
  | .c => s.lastSelector

/-- A fetch transaction on a bus. -/
def fetchOn (bus : Bus) (sel : Selector) (s : State) : State :=
  onBus bus s (fun p t => fetchEffect (rulingSelector t sel p) p t)

/-- FETCH_REPLY (R160). -/
def execFetchReply (bus : Bus) (s : State) : Host.Outcome State Fault Refusal :=
  .next (fetchOn bus .fetchReply s)

/-- FETCH_RESULT (R161). -/
def execFetchResult (bus : Bus) (s : State) : Host.Outcome State Fault Refusal :=
  .next (fetchOn bus .fetchResult s)

/-- FETCH_NOTICE (R149). -/
def execFetchNotice (bus : Bus) (s : State) : Host.Outcome State Fault Refusal :=
  .next (fetchOn bus .fetchNotice s)

/-- PORT_STATUS (R163). -/
def execPortStatus (bus : Bus) (s : State) : Host.Outcome State Fault Refusal :=
  .next (fetchOn bus .portStatus s)

/-- An I2C write that reached Port C (R156): a SEND-FRAME selector carries a frame, a fetch or PORT-STATUS
selector becomes the last selector, an unknown selector and an empty write do nothing. -/
def writeSelector (bytes : List Byte) (s : State) : State :=
  match bytes with
  | [] => s
  | sel :: rest =>
      match selectorOf sel with
      | none => s
      | some .sendFrame => receive .c rest handleCode s
      | some .fetchReply => { s with lastSelector := .fetchReply }
      | some .fetchResult => { s with lastSelector := .fetchResult }
      | some .fetchNotice => { s with lastSelector := .fetchNotice }
      | some .portStatus => { s with lastSelector := .portStatus }

/-- LAST_SELECTOR_WRITE (R156). -/
def execLastSelectorWrite (addr : BitVec 7) (bytes : List Byte) (s : State) :
    Host.Outcome State Fault Refusal :=
  .next (onBus (.i2c addr) s (fun _ t => writeSelector bytes t))

end Sys2Proof.Machine
end

