-- ==== Sys2Proof/Machine/FrameCommands.lean ====
section
/-! DEFINITION. The rows that are frames of one command (Table 10-3), and the three that are not. -/

namespace Sys2Proof.Machine

/-- INCOMPLETE_FRAME: a SEND-FRAME transaction with too few bytes sets the truncated flag (R157). Bytes that
are complete after all are handled as R158 gives. -/
def execIncompleteFrame (bus : Bus) (bytes : List Byte) (s : State) : Host.Outcome State Fault Refusal :=
  .next (sendFrame bus bytes handleCode s)

/-- UNKNOWN_COMMAND: a taken frame with a code outside Table 12-3 (R159). -/
def execUnknownCommand (bus : Bus) (code : Byte) (f : Frame) (s : State) : Host.Outcome State Fault Refusal :=
  .next (sendFrame bus (frameBytes code f) handleCode s)

/-- FRAME_DISCARD: a complete frame at a WORKING slot is discarded and the discard flag set (R158). At any
other slot the frame is taken. -/
def execFrameDiscard (bus : Bus) (bytes : List Byte) (s : State) : Host.Outcome State Fault Refusal :=
  .next (sendFrame bus bytes handleCode s)

/-- READ (R131, R132). -/
def execRead (bus : Bus) (f : Frame) (s : State) : Host.Outcome State Fault Refusal :=
  .next (sendCommand .read bus f handleRead s)

/-- INFO (R136). -/
def execInfo (bus : Bus) (f : Frame) (s : State) : Host.Outcome State Fault Refusal :=
  .next (sendCommand .info bus f (handleQuery .info infoAnswer) s)

/-- LIST (R137). -/
def execList (bus : Bus) (f : Frame) (s : State) : Host.Outcome State Fault Refusal :=
  .next (sendCommand .list bus f (handleQuery .list listAnswer) s)

/-- COUNT-READ (R138). -/
def execCountRead (bus : Bus) (f : Frame) (s : State) : Host.Outcome State Fault Refusal :=
  .next (sendCommand .countRead bus f (handleQuery .countRead countReadAnswer) s)

/-- POLICY-READ (R139). -/
def execPolicyRead (bus : Bus) (f : Frame) (s : State) : Host.Outcome State Fault Refusal :=
  .next (sendCommand .policyRead bus f (handleQuery .policyRead policyReadAnswer) s)

/-- STATUS (R140). -/
def execStatus (bus : Bus) (f : Frame) (s : State) : Host.Outcome State Fault Refusal :=
  .next (sendCommand .status bus f (handleQuery .status statusAnswer) s)

/-- IDENTIFY (R139). -/
def execIdentify (bus : Bus) (f : Frame) (s : State) : Host.Outcome State Fault Refusal :=
  .next (sendCommand .identify bus f (handleQuery .identify identifyAnswer) s)

/-- AUDIT-REPORT (R141). -/
def execAuditReport (bus : Bus) (f : Frame) (s : State) : Host.Outcome State Fault Refusal :=
  .next (sendCommand .auditReport bus f (handleQuery .auditReport auditReportAnswer) s)

/-- SUBSCRIBE (R143). -/
def execSubscribe (bus : Bus) (f : Frame) (s : State) : Host.Outcome State Fault Refusal :=
  .next (sendCommand .subscribe bus f handleSubscribe s)

/-- UNSUBSCRIBE (R144). -/
def execUnsubscribe (bus : Bus) (f : Frame) (s : State) : Host.Outcome State Fault Refusal :=
  .next (sendCommand .unsubscribe bus f handleUnsubscribe s)

/-- SET-ALERT-MASK (R150). -/
def execSetAlertMask (bus : Bus) (f : Frame) (s : State) : Host.Outcome State Fault Refusal :=
  .next (sendCommand .setAlertMask bus f handleSetAlertMask s)

/-- PORT-RESET (R164). -/
def execPortReset (bus : Bus) (f : Frame) (s : State) : Host.Outcome State Fault Refusal :=
  .next (sendCommand .portReset bus f handlePortReset s)

/-- APPEND at its port (R22). -/
def execAppend (bus : Bus) (f : Frame) (s : State) : Host.Outcome State Fault Refusal :=
  .next (sendCommand .append bus f (handleJob .append parseAppend) s)

/-- DELETE at its port (R22). -/
def execDelete (bus : Bus) (f : Frame) (s : State) : Host.Outcome State Fault Refusal :=
  .next (sendCommand .delete bus f (handleJob .delete parseDelete) s)

/-- COUNT-ADVANCE at its port (R22). -/
def execCountAdvance (bus : Bus) (f : Frame) (s : State) : Host.Outcome State Fault Refusal :=
  .next (sendCommand .countAdvance bus f (handleJob .countAdvance parseCountAdvance) s)

/-- COUNT-RAISE at its port (R22). -/
def execCountRaise (bus : Bus) (f : Frame) (s : State) : Host.Outcome State Fault Refusal :=
  .next (sendCommand .countRaise bus f (handleJob .countRaise parseCountRaise) s)

/-- RESTRICT at its port (R22, R25). -/
def execRestrict (bus : Bus) (f : Frame) (s : State) : Host.Outcome State Fault Refusal :=
  .next (sendCommand .restrict bus f (handleJob .restrict parseRestrict) s)

/-- SET-OPTION at its port (R22, R25). -/
def execSetOption (bus : Bus) (f : Frame) (s : State) : Host.Outcome State Fault Refusal :=
  .next (sendCommand .setOption bus f (handleJob .setOption parseSetOption) s)

/-- CLOSE at its port (R22, R25). -/
def execClose (bus : Bus) (f : Frame) (s : State) : Host.Outcome State Fault Refusal :=
  .next (sendCommand .close bus f (handleJob .close parseClose) s)

/-- AUDIT (R166). -/
def execAudit (bus : Bus) (f : Frame) (s : State) : Host.Outcome State Fault Refusal :=
  .next (sendCommand .audit bus f handleAudit s)

end Sys2Proof.Machine
end

