-- ==== Sys2Proof/Machine/EngineCore.lean ====
section
/-! DEFINITION. What every job shares at the engine: preparing a sequence, results and FINISHING (R33, R37, R38). -/

namespace Sys2Proof.Machine

/-- The command of a job's kind (Table 2-1). -/
def jobCommand : JobKind → Command
  | .append _ _ _ => .append
  | .delete _ _ => .delete
  | .countAdvance _ _ => .countAdvance
  | .countRaise _ _ => .countRaise
  | .restrict _ _ => .restrict
  | .setOption _ => .setOption
  | .close => .close

/-- The counter a counter job moves. -/
def jobCounter : JobKind → Option Nat
  | .append _ _ _ => none
  | .delete _ _ => none
  | .countAdvance c _ => some c
  | .countRaise c _ => some c
  | .restrict _ _ => none
  | .setOption _ => none
  | .close => none

/-- The engine's per-job working state is set. -/
def setWork (w : Work) (s : State) : State := { s with engine := { s.engine with work := w } }

/-- The engine prepares a word sequence, enters its claim and goes to WAITING; its PGM_EN sample was high
(R33). The last margin value of Table 1-6 is held as 0 until the opening read of R10 takes it (DESIGN CHOICE, log
entry 28). -/
def prepare (word : Nat) (target : Word) (s : State) : State :=
  enterClaim .engine
    { s with engine := { s.engine with state := .waiting, seq := some ⟨word, target, 0, 0#32, false⟩ } }

/-- The attempt count of a result (Table 2-9). -/
def workAttempts : Work → Nat
  | .none => 0
  | .record w => w.attempts
  | .counter w => w.openAttempts
  | .policy ran => if ran then 1 else 0

/-- The sequence field of a result: the last span allocated, 0 when none was (Table 2-9, R61). -/
def workSequence : Work → Nat
  | .record w => (w.span.map (fun p => p.seq)).getD 0
  | .none => 0
  | .counter _ => 0
  | .policy _ => 0

/-- The result record of the active job (R38, Table 2-9). -/
def jobResult (s : State) (j : Job) (code : Code) (retireWeak : Bool) : Result :=
  ⟨code, j.tag, jobCommand j.kind,
    .job (workSequence s.engine.work)
      (((jobCounter j.kind).map (fun c => (counterEntry s c).value)).getD 0)
      retireWeak (workAttempts s.engine.work)⟩

/-- The counter's value differs from its value at the job's start (R93). -/
def counterMoved (s : State) (w : CounterWork) : Bool := (counterEntry s w.counter).value != w.start

/-- FINISHING step 1: COUNTER_MOVED for a counter job whose value changed (R37, R93). -/
def finishNotices (j : Job) (s : State) : State :=
  match s.engine.work with
  | .counter w =>
      if counterMoved s w then
        postNotice ⟨.counterMoved, w.counter, BitVec.ofNat 32 (counterEntry s w.counter).value, some j.port⟩ s
      else s
  | .none => s
  | .record _ => s
  | .policy _ => s

/-- FINISHING, as one event: notices, the result appended or discarded, the outstanding count lowered,
the job record discarded, IDLE (R37). -/
def finish (code : Code) (retireWeak : Bool) (s : State) : State :=
  match s.engine.job with
  | none => s
  | some j =>
      let r := jobResult s j code retireWeak
      { deliverResult j.port j.orphan r (finishNotices j s) with engine := Engine.resting }

/-- A job abandoned because PGM_EN was found low (R35, R62, R94, Table 2-8). -/
def abandon (s : State) : State :=
  match s.engine.work with
  | .counter w => if counterMoved s w then finish .partialMove false s else finish .isProtected false s
  | .none => finish .isProtected false s
  | .record _ => finish .isProtected false s
  | .policy _ => finish .isProtected false s

/-- The engine samples PGM_EN before it prepares a sequence: high goes on, low abandons (R33). -/
def sampled (go : State → State) (s : State) : State := if s.pgmEn then go s else abandon s

/-! ### Outcomes of a word sequence (R13) -/

/-- Outcome classes (Table 1-7). -/
inductive OutcomeClass where
  | succeeded
  | failed
  | blocked
deriving DecidableEq, Repr

/-- What a word sequence hands to its caller (R13). -/
structure SeqOutcome where
  word : Nat
  cls : OutcomeClass
  pulses : Nat
  normal : Word
  margin : Word
deriving DecidableEq, Repr

end Sys2Proof.Machine
end

