-- ==== Sys2Proof/Machine/EngineCounter.lean ====
section
/-! DEFINITION. COUNT-ADVANCE and COUNT-RAISE at the engine (chapter 5). -/

namespace Sys2Proof.Machine

/-- The position after an entry's highest set position. -/
def afterHighest (highest : Option Nat) : Nat := (highest.map (fun h => h + 1)).getD 0

/-- The number of positions the next step targets: the smaller of remaining and the positions left in
the word (R86). -/
def stepCount (w : CounterWork) : Nat := min w.remaining (32 - w.nextPos % 32)

/-- The cells the next step targets in its word: `stepCount` cells from the next position up (R86). -/
def stepCells (w : CounterWork) : Word :=
  BitVec.ofNat 32 ((2 ^ stepCount w - 1) * 2 ^ (w.nextPos % 32))

/-- The thermometer word that holds a position of a strip (R79). -/
def thermometerWord (strip pos : Nat) : Nat := stripWord strip (2 + pos / 32)

/-- The result of a counter job that ends short of its target: PARTIAL when the value moved (Table 5-6). -/
def endShort (w : CounterWork) (otherwise : Code) (s : State) : State :=
  if counterMoved s w then finish .partialMove false s else finish otherwise false s

/-- An open attempt begins: the strip at the cursor is allocated and its base word prepared, PGM_EN
having been sampled high; at cursor 512 the job ends (R89, R92). -/
def openStrip (w : CounterWork) (s : State) : State :=
  let strip := s.log.stripCursor
  if Config.stripCount ≤ strip then endShort w .noStrip s
  else
    let w' := { w with openAttempts := w.openAttempts + 1, opening := some (strip, .base) }
    prepare (stripWord strip 0) (encodeBase w.target)
      (setWork (.counter w') { s with log := { s.log with stripCursor := strip + 1 } })

/-- The engine samples PGM_EN and begins an open attempt (R89). -/
def beginOpen (w : CounterWork) (s : State) : State :=
  sampled (openStrip w) (setWork (.counter w) s)

/-- The job's next thermometer step, its end, or a new strip (R86). -/
def counterStep (w : CounterWork) (s : State) : State :=
  if w.remaining = 0 then finish .ok false (setWork (.counter w) s)
  else if Config.stripPositions ≤ w.nextPos then beginOpen w s
  else
    match (counterEntry s w.counter).strip with
    | none => beginOpen w s
    | some strip =>
        sampled (prepare (thermometerWord strip w.nextPos) (stepCells w)) (setWork (.counter w) s)

/-- The kind-specific start checks of a counter job that advances by `n` (R84). -/
def advanceRefusal (s : State) (c n : Nat) : Option Code :=
  let e := counterEntry s c
  if Config.counterMax < e.value + n then some .limit
  else if (e.strip.isNone ∨ counterRoom e < n) ∧ Config.stripCount ≤ s.log.stripCursor then some .noStrip
  else none

/-- The working state of a counter job whose start checks passed (Table 5-4, R84, R86). -/
def counterWork (s : State) (c n : Nat) : CounterWork :=
  let e := counterEntry s c
  ⟨c, e.value, e.value + n, n, afterHighest e.highest, 0, none⟩

/-- The start of a counter job that advances by `n`, its general checks passed (R84). -/
def startAdvance (c n : Nat) (s : State) : State :=
  match advanceRefusal s c n with
  | some code => finish code false s
  | none =>
      let e := counterEntry s c
      if e.strip.isSome ∧ n ≤ counterRoom e then counterStep (counterWork s c n) s
      else beginOpen (counterWork s c n) s

/-- The start of a COUNT-RAISE to `v`, its general checks passed (R85). -/
def startRaise (c v : Nat) (s : State) : State :=
  if v ≤ (counterEntry s c).value then finish .ok false s
  else startAdvance c (v - (counterEntry s c).value) s

/-- The highest set bit of a word. -/
def highestBit (v : Word) : Option Nat :=
  (List.range 32).foldl (fun best i => if v.getLsbD i then some i else best) none

/-- The greater of two positions, none being below every position. -/
def maxPosition (x y : Option Nat) : Option Nat :=
  match x, y with
  | none, y => y
  | some a, none => some a
  | some a, some b => some (max a b)

/-- The counter's entry after a thermometer word's normal-level value is seen: ones and value rise by
the targeted cells that read set, and the highest set position follows the word (R87). -/
def thermometerEntry (e : CounterEntry) (w : CounterWork) (normal : Word) : CounterEntry :=
  let moved := onesCount (normal &&& stepCells w)
  let seen := (highestBit normal).map (fun b => w.nextPos / 32 * 32 + b)
  { e with
    ones := e.ones + moved
    value := counterField (e.value + moved)
    highest := maxPosition e.highest seen }

/-- The working state after a thermometer word sequence (R87). Step 3 is taken as it stands: a FAILED step of few
positions leaves the next one in the same word, so more than the six failures of R88 fit a strip (log entry 27). -/
def thermometerWork (e : CounterEntry) (w : CounterWork) (o : SeqOutcome) : CounterWork :=
  { w with
    remaining := w.remaining - onesCount (o.normal &&& stepCells w)
    nextPos :=
      match o.cls with
      | .failed => w.nextPos + stepCount w
      | .succeeded => afterHighest e.highest
      | .blocked => afterHighest e.highest }

/-- The outcome of a thermometer word sequence (R87). -/
def thermometerOutcome (w : CounterWork) (o : SeqOutcome) (s : State) : State :=
  let e := thermometerEntry (counterEntry s w.counter) w o.normal
  let w' := thermometerWork e w o
  let s' := setWork (.counter w') (setCounter e s)
  match o.cls with
  | .succeeded => counterStep w' s'
  | .failed => counterStep w' s'
  | .blocked => abandon s'

/-- After a failed open attempt: a second one, or the end of the job (R92). -/
def retryOpen (w : CounterWork) (s : State) : State :=
  if w.openAttempts < 2 then beginOpen { w with opening := none } s else endShort w .programFail s

/-- The strip cursor returns to a strip whose base word stayed 0 (R90). -/
def returnCursor (strip : Nat) (s : State) : State := { s with log := { s.log with stripCursor := strip } }

/-- The outcome of a base sequence (R90). -/
def baseOutcome (w : CounterWork) (strip : Nat) (o : SeqOutcome) (s : State) : State :=
  let back := if o.normal = 0#32 then returnCursor strip s else s
  match o.cls with
  | .succeeded =>
      sampled
        (fun t => prepare (stripWord strip 1) (encodeClaim w.counter)
          (setWork (.counter { w with opening := some (strip, .claim) }) t))
        s
  | .failed => retryOpen w back
  | .blocked => abandon back

/-- The counter moves to a newly claimed strip and the job ends OK (R91). -/
def switchStrip (w : CounterWork) (strip : Nat) (s : State) : State :=
  finish .ok false
    (setWork (.counter { w with remaining := 0 })
      (setCounter ⟨w.counter, some strip, w.target, 0, none, w.target⟩ s))

/-- The outcome of a claim sequence (R91). -/
def claimOutcome (w : CounterWork) (strip : Nat) (o : SeqOutcome) (s : State) : State :=
  let reads := o.normal = encodeClaim w.counter
  match o.cls with
  | .succeeded => switchStrip w strip s
  | .failed =>
      if reads then
        if s.pgmEn then
          prepare (stripWord strip 1) (BitVec.allOnes 32)
            (setWork (.counter { w with opening := some (strip, .void) }) s)
        else switchStrip w strip s
      else retryOpen w s
  | .blocked => if reads then switchStrip w strip s else abandon s

/-- The outcome of a void (R91). -/
def voidOutcome (w : CounterWork) (strip : Nat) (o : SeqOutcome) (s : State) : State :=
  if o.normal = encodeClaim w.counter then switchStrip w strip s
  else
    match o.cls with
    | .succeeded => retryOpen w s
    | .failed => retryOpen w s
    | .blocked => abandon s

/-- The outcome of a word sequence of a counter job (R87, R90, R91). -/
def counterOutcome (w : CounterWork) (o : SeqOutcome) (s : State) : State :=
  match w.opening with
  | none => thermometerOutcome w o s
  | some (strip, .base) => baseOutcome w strip o s
  | some (strip, .claim) => claimOutcome w strip o s
  | some (strip, .void) => voidOutcome w strip o s

end Sys2Proof.Machine
end

