-- ==== Sys2Proof/Machine/EnginePolicy.lean ====
section
/-! DEFINITION. RESTRICT, SET-OPTION and CLOSE at the engine (chapter 6, section 6.6). -/

namespace Sys2Proof.Machine

/-- The option-block word of a policy job and its requested cells (Table 6-4). -/
def policyRequest : JobKind → Option (Nat × Word)
  | .restrict t marks => some (targetIndex t, marks.setWidth 32)
  | .setOption marks => some (1, marks.setWidth 32)
  | .close => some (0, BitVec.allOnes 32)
  | .append _ _ _ => none
  | .delete _ _ => none
  | .countAdvance _ _ => none
  | .countRaise _ _ => none

/-- The start of a policy job whose general checks passed: its one word sequence, with target the copy's
word and the requested cells (R108). -/
def startPolicy (j : Job) (s : State) : State :=
  match policyRequest j.kind with
  | none => s
  | some (word, cells) =>
      sampled (fun t => prepare word (copyWord t word ||| cells) t) (setWork (.policy false) s)

/-- A word of the policy copy takes a new value (R109). -/
def setCopyWord (word : Nat) (v : Word) (s : State) : State := { s with policy := s.policy.set word v }

/-- Ports whose alert-level mark came into force between two values of the option word change to LEVEL
mode (R102, R109). -/
def enterNewLevels (word : Nat) (old new : Word) (s : State) : State :=
  if word = 1 then
    (allPorts.filter (fun p => new.getLsbD (portIndex p) && !old.getLsbD (portIndex p))).foldl
      (fun t p => enterLevel p t) s
  else s

/-- The policy unit acts on a sequence's end: copy, notice, alert modes (R109). -/
def policyUpdate (j : Job) (word : Nat) (new : Word) (s : State) : State :=
  let old := copyWord s word
  let s1 := setCopyWord word new s
  let s2 := if new = old then s1 else postNotice ⟨.policyChanged, word, new, some j.port⟩ s1
  enterNewLevels word old new s2

/-- Every requested mark reads set; for CLOSE, any cell (R110). -/
def policyMet (k : JobKind) (cells normal : Word) : Bool :=
  match k with
  | .close => normal != 0#32
  | .restrict _ _ => cells &&& ~~~ normal == 0#32
  | .setOption _ => cells &&& ~~~ normal == 0#32
  | .append _ _ _ => false
  | .delete _ _ => false
  | .countAdvance _ _ => false
  | .countRaise _ _ => false

/-- The result code of a policy job whose sequence ran (Table 6-5). -/
def policyCode (k : JobKind) (cells : Word) (o : SeqOutcome) : Code :=
  match o.cls with
  | .blocked => .isProtected
  | .succeeded => if policyMet k cells o.normal then .ok else .programFail
  | .failed => if policyMet k cells o.normal then .ok else .programFail

/-- The outcome of a policy job's word sequence (R109, R110). -/
def policyOutcome (j : Job) (o : SeqOutcome) (s : State) : State :=
  match policyRequest j.kind with
  | none => s
  | some (word, cells) =>
      finish (policyCode j.kind cells o) false (setWork (.policy true) (policyUpdate j word o.normal s))

end Sys2Proof.Machine
end

