-- ==== Sys2Proof/Machine/EngineRecord.lean ====
section
/-! DEFINITION. APPEND and DELETE at the engine (chapter 3). -/

namespace Sys2Proof.Machine

/-- Payload words of an L-byte payload: L divided by 4 and rounded up (R43). -/
def payloadW (len : Nat) : Nat := (len + 3) / 4

/-- The key, record kind and payload of a record job. -/
def recordFields : JobKind → Option (Nat × RecordKind × List Byte)
  | .append key _ payload => some (key, .data, payload)
  | .delete key _ => some (key, .tombstone, [])
  | .countAdvance _ _ => none
  | .countRaise _ _ => none
  | .restrict _ _ => none
  | .setOption _ => none
  | .close => none

/-- The expected-sequence condition of Table 3-6. -/
def expectedMet (expected : Option Nat) (entry : Option DirEntry) : Bool :=
  match expected, entry with
  | none, _ => true
  | some 0, none => true
  | some 0, some e => e.state != .live
  | some (_ + 1), none => false
  | some (n + 1), some e => e.state != .lost && e.seq == n + 1

/-- A span of W payload words fits at the append point and has a sequence number to take (R51, R53). -/
def spanFits (l : LogAllocator) (w : Nat) : Bool :=
  decide (l.appendPoint + spanLength w ≤ Config.arrayWords) && decide (l.nextSeq < Config.sequenceMax)

/-- The kind-specific start checks of an APPEND (R51). -/
def appendRefusal (s : State) (key : Nat) (expected : Option Nat) (len : Nat) : Option Code :=
  let entry := dirFind s.directory key
  if !expectedMet expected entry then some .stale
  else if entry.isNone ∧ Config.directoryMax ≤ s.directory.length then some .dirFull
  else if !spanFits s.log (payloadW len) then some .noSpace
  else none

/-- The kind-specific start checks of a DELETE (R52). -/
def deleteRefusal (s : State) (key : Nat) (expected : Option Nat) : Option Code :=
  match dirFind s.directory key with
  | none => some .notFound
  | some e =>
      if e.state = .deleted then some .notFound
      else if !expectedMet expected (some e) then some .stale
      else if !spanFits s.log 0 then some .noSpace
      else none

/-- What the engine builds for a span: header, packed payload and check (R43, R46, R53). R59 gives a relocation
the same check; the model computes it anew, as R46 makes it cover the new sequence number (log entry 24). -/
def buildSpan (l : LogAllocator) (key : Nat) (kind : RecordKind) (writer : Port) (payload : List Byte) : Span :=
  let w := payloadW payload.length
  let pad := 4 * w - payload.length
  let header := encodeHeader ⟨key, w, pad, kind, writer⟩
  let words := packPayload payload
  ⟨l.appendPoint, w, pad, l.nextSeq, header, words, recordCheck header (BitVec.ofNat 32 l.nextSeq) words⟩

/-- The array index of a word of a span (Table 3-1); `retire` names the previous record's. -/
def recordIndex (sp : Span) (previous : Option PreviousRecord) : RecordWord → Nat
  | .header => sp.location
  | .sequence => sp.location + 1
  | .payload i => sp.location + 2 + i
  | .check => checkIndex sp.location sp.w
  | .commit => commitIndex sp.location sp.w
  | .selfRetire => retireIndex sp.location sp.w
  | .retire => (previous.map (fun q => retireIndex q.location q.w)).getD 0

/-- The target of a word of a span (Table 3-1). -/
def recordTarget (sp : Span) : RecordWord → Word
  | .header => sp.header
  | .sequence => BitVec.ofNat 32 sp.seq
  | .payload i => sp.payload.getD i 0#32
  | .check => sp.check
  | .commit => BitVec.allOnes 32
  | .selfRetire => BitVec.allOnes 32
  | .retire => BitVec.allOnes 32

/-- The word after a header, sequence, payload or check word that verified (R54). -/
def followingWord (sp : Span) : RecordWord → RecordWord
  | .header => .sequence
  | .sequence => if sp.w = 0 then .check else .payload 0
  | .payload i => if i + 1 < sp.w then .payload (i + 1) else .check
  | .check => .commit
  | .commit => .retire
  | .selfRetire => .header
  | .retire => .retire

/-- The engine prepares word `next` of the current span (R54). -/
def prepareRecordWord (w : RecordWork) (sp : Span) (next : RecordWord) (s : State) : State :=
  prepare (recordIndex sp w.previous next) (recordTarget sp next)
    (setWork (.record { w with next := next }) s)

/-- The log allocator allocates a span and the engine prepares its header, PGM_EN having been sampled
high (R53). -/
def allocateSpan (w : RecordWork) (sp : Span) (s : State) : State :=
  prepareRecordWord { w with attempts := w.attempts + 1, span := some sp } sp .header
    { s with
      log := { s.log with
        appendPoint := s.log.appendPoint + spanLength sp.w
        nextSeq := s.log.nextSeq + 1 } }

/-- An attempt begins: the sample of PGM_EN, then the fit, then the allocation (R53, R59). -/
def beginAttempt (w : RecordWork) (j : Job) (s : State) : State :=
  match recordFields j.kind with
  | none => s
  | some (key, kind, payload) =>
      sampled
        (fun t =>
          if spanFits t.log (payloadW payload.length) then
            allocateSpan w (buildSpan t.log key kind j.port payload) t
          else finish .noSpace false t)
        s

/-- The start of an APPEND whose general checks passed (R51, R53). -/
def startAppend (j : Job) (key : Nat) (expected : Option Nat) (payload : List Byte) (s : State) : State :=
  match appendRefusal s key expected payload.length with
  | some code => finish code false s
  | none =>
      let w : RecordWork := ⟨0, none, .header, none⟩
      beginAttempt w j (setWork (.record w) s)

/-- The start of a DELETE whose general checks passed (R52, R53). -/
def startDelete (j : Job) (key : Nat) (expected : Option Nat) (s : State) : State :=
  match deleteRefusal s key expected with
  | some code => finish code false s
  | none =>
      let w : RecordWork := ⟨0, none, .header, none⟩
      beginAttempt w j (setWork (.record w) s)

/-- After a failed attempt: a fresh one while fewer than 3 were made, else PROGRAM_FAIL (R59). -/
def relocate (w : RecordWork) (j : Job) (s : State) : State :=
  if w.attempts < 3 then beginAttempt w j s else finish .programFail false s

/-- The append point after a header that failed or was blocked (Table 3-7, R55). -/
def failedHeaderPoint (sp : Span) (normal : Word) : Nat :=
  if normal = 0#32 then sp.location
  else if normal = sp.header then sp.location + spanLength sp.w
  else sp.location + 1

/-- The append point is set (R55). -/
def setAppendPoint (n : Nat) (s : State) : State := { s with log := { s.log with appendPoint := n } }

/-- The outcome of a header sequence (R55). -/
def headerOutcome (w : RecordWork) (sp : Span) (j : Job) (o : SeqOutcome) (s : State) : State :=
  match o.cls with
  | .succeeded => sampled (prepareRecordWord w sp .sequence) s
  | .failed => relocate w j (setAppendPoint (failedHeaderPoint sp o.normal) s)
  | .blocked => abandon (setAppendPoint (failedHeaderPoint sp o.normal) s)

/-- The outcome of a sequence word, payload word or check word (R56). -/
def bodyOutcome (w : RecordWork) (sp : Span) (j : Job) (o : SeqOutcome) (s : State) : State :=
  match o.cls with
  | .succeeded => sampled (prepareRecordWord w sp (followingWord sp w.next)) s
  | .failed => relocate w j s
  | .blocked => abandon s

/-- The directory entry a commit hands over (R57, R67). -/
def committedEntry (key : Nat) (kind : RecordKind) (j : Job) (sp : Span) : DirEntry :=
  ⟨key, if kind = .data then .live else .deleted, sp.location, sp.w, sp.pad, sp.seq, j.port⟩

/-- The notice of a commit (R57). -/
def commitNotice (key : Nat) (kind : RecordKind) (j : Job) (sp : Span) : Notice :=
  ⟨if kind = .data then .keyWritten else .keyDeleted, key, BitVec.ofNat 32 sp.seq, some j.port⟩

/-- The commit point: the previous record is noted, the directory updated, the notice posted (R57). -/
def commitPoint (key : Nat) (kind : RecordKind) (j : Job) (sp : Span) (s : State) : State :=
  postNotice (commitNotice key kind j sp)
    { s with directory := dirPut s.directory (committedEntry key kind j sp) }

/-- The retire step of the previous record, when there is one (R36, R60). With none the job ends OK with the
retire-weak flag clear (log entry 25). -/
def retireStep (w : RecordWork) (sp : Span) (s : State) : State :=
  match w.previous with
  | none => finish .ok false s
  | some _ =>
      if s.pgmEn then prepareRecordWord w sp .retire s
      else finish .ok true (setWork (.record w) s)

/-- The outcome of a commit sequence (R57, R58). -/
def commitOutcome (w : RecordWork) (sp : Span) (j : Job) (o : SeqOutcome) (s : State) : State :=
  match o.cls with
  | .succeeded =>
      match recordFields j.kind with
      | none => s
      | some (key, kind, _) =>
          let previous := (dirFind s.directory key).map (fun e => PreviousRecord.mk e.location e.w e.seq)
          retireStep { w with previous := previous } sp (commitPoint key kind j sp s)
  | .failed =>
      if o.normal = BitVec.allOnes 32 then sampled (prepareRecordWord w sp .selfRetire) s
      else relocate w j s
  | .blocked => abandon s

/-- The outcome of a self-retire (R58). -/
def selfRetireOutcome (w : RecordWork) (j : Job) (o : SeqOutcome) (s : State) : State :=
  match o.cls with
  | .succeeded => relocate w j s
  | .failed => relocate w j s
  | .blocked => abandon s

/-- The outcome of a word sequence of an APPEND or DELETE (R55 to R60). -/
def recordOutcome (w : RecordWork) (j : Job) (o : SeqOutcome) (s : State) : State :=
  match w.span with
  | none => s
  | some sp =>
      match w.next with
      | .header => headerOutcome w sp j o s
      | .sequence => bodyOutcome w sp j o s
      | .payload _ => bodyOutcome w sp j o s
      | .check => bodyOutcome w sp j o s
      | .commit => commitOutcome w sp j o s
      | .selfRetire => selfRetireOutcome w j o s
      | .retire => finish .ok (o.normal == 0#32) s

end Sys2Proof.Machine
end

