-- ==== Sys2Proof/Machine/EngineSequence.lean ====
section
/-! DEFINITION. The word sequence (R10 to R13), the hand-over of its outcome, and repairs (R40, R125 to R127). -/

namespace Sys2Proof.Machine

/-! ### Repairs -/

/-- The target a repair's sequence is prepared with: all ones for RETIRE (R126), no cells for TOUCH_UP (R127). -/
def repairTarget : RepairKind → Word
  | .retire => BitVec.allOnes 32
  | .touchUp => 0#32

/-- The repair list's judgement of an outcome that is not BLOCKED: done or failed (R126, R127). -/
def repairDone (k : RepairKind) (o : SeqOutcome) : Bool :=
  match k with
  | .retire => o.normal != 0#32
  | .touchUp => decide (o.cls = .succeeded)

/-- The repair list removes its head entry and counts it (R125). -/
def countHead (ok : Bool) (r : RepairList) : RepairList :=
  if ok then { r with entries := r.entries.drop 1, done := countRepair r.done }
  else { r with entries := r.entries.drop 1, failed := countRepair r.failed }

/-- The outcome of a repair's sequence; the engine goes to IDLE (R40, R125). -/
def repairOutcome (e : RepairEntry) (o : SeqOutcome) (s : State) : State :=
  match o.cls with
  | .blocked => { s with engine := Engine.resting }
  | .succeeded => { s with engine := Engine.resting, repair := countHead (repairDone e.kind o) s.repair }
  | .failed => { s with engine := Engine.resting, repair := countHead (repairDone e.kind o) s.repair }

/-! ### The end of a sequence -/

/-- The outcome is handed to the job or repair that asked for the sequence (R13, R34). -/
def handOver (o : SeqOutcome) (s : State) : State :=
  match s.engine.repair with
  | some e => repairOutcome e o s
  | none =>
      match s.engine.job with
      | none => s
      | some j =>
          match s.engine.work with
          | .record w => recordOutcome w j o s
          | .counter w => counterOutcome w o s
          | .policy _ => policyOutcome j o s
          | .none => s

/-- A sequence ends: the outcome is handed over and the array released, in one event (R13). The normal-level
value is read in the same grant, after the last margin read. A claim the outcome leads to is entered in this
event, so it stands among the pending claims at the release. -/
def endSequence (q : Sequence) (cls : OutcomeClass) (s : State) : State :=
  let o : SeqOutcome := ⟨q.word, cls, q.pulses, readNormal s.array q.word, q.margin⟩
  releaseArray (handOver o { s with engine := { s.engine with seq := none } })

/-- The cells the next pulse is applied to: target cells that read clear at margin (R11). -/
def pulseMask (q : Sequence) : Word := q.target &&& ~~~ q.margin

/-- Every target cell reads set at margin (R10, R11). -/
def targetReached (q : Sequence) : Bool := pulseMask q == 0#32

/-- The next pulse is due: PGM_EN low ends the sequence BLOCKED, high applies the pulse (R12). -/
def duePulse (q : Sequence) (s : State) : State :=
  if s.pgmEn then
    { s with engine := { s.engine with state := .programming, seq := some { q with cut := false } } }
  else endSequence q .blocked s

/-- The opening read of a granted sequence (R10). -/
def openingRead (m : Memory) (q : Sequence) : Sequence :=
  { q with
    target := q.target ||| readNormal m q.word
    pulses := 0
    margin := readMargin m q.word
    cut := false }

/-- A prepared sequence is granted the array: the opening read, then its end or its first pulse (R10, R12). -/
def startSequence (q : Sequence) (s : State) : State :=
  let q' := openingRead s.array q
  if targetReached q' then endSequence q' .succeeded s else duePulse q' s

/-- The margin read after a pulse is judged (R11, R12). -/
def judgePulse (q : Sequence) (s : State) : State :=
  let q' := { q with pulses := q.pulses + 1, margin := readMargin s.array q.word }
  if targetReached q' then endSequence q' .succeeded s
  else if Config.pulseMax ≤ q'.pulses then endSequence q' .failed s
  else duePulse q' s

/-! ### Pulses -/

/-- The sequence whose pulse is being applied, none when no pulse is (R11). -/
def runningSequence (s : State) : Option Sequence :=
  if s.engine.state = .programming then s.engine.seq else none

/-- The array after the pulse in progress, unless a fall of PGM_EN has already cut it (R2, R3). -/
def pulsedArray (s : State) (e : PulseEffect) : Memory :=
  match runningSequence s with
  | none => s.array
  | some q =>
      if q.cut ∨ Config.arrayWords ≤ q.word then s.array
      else pulseWord s.array q.word (pulseMask q) e

/-! ### Taking work -/

/-- The general start checks, then the kind's own start (Table 2-7, R31). -/
def startChecks (j : Job) (s : State) : State :=
  if !s.pgmEn then finish .isProtected false s
  else
    match accessRefusal s j.port j.kind, lifeCycleRefusal s j.port j.kind with
    | some code, _ => finish code false s
    | none, some code => finish code false s
    | none, none =>
        match j.kind with
        | .append key expected payload => startAppend j key expected payload s
        | .delete key expected => startDelete j key expected s
        | .countAdvance c n => startAdvance c n s
        | .countRaise c v => startRaise c v s
        | .restrict _ _ => startPolicy j s
        | .setOption _ => startPolicy j s
        | .close => startPolicy j s

/-- The engine takes a job and goes to CHECKING (R30). -/
def takeJob (j : Job) (rest : List Job) (s : State) : State :=
  startChecks j { s with jobs := rest, engine := { Engine.resting with state := .checking, job := some j } }

/-- The engine takes the oldest repair entry and prepares its one sequence (R40, R125). -/
def takeRepair (e : RepairEntry) (s : State) : State :=
  prepare e.word (repairTarget e.kind) { s with engine := { Engine.resting with repair := some e } }

end Sys2Proof.Machine
end

