-- ==== Sys2Proof/Machine/Grants.lean ====
section
/-! DEFINITION. The arbiter's grant, pulses, bursts and the engine's taking of work (R16 to R19, R30, R40, R133). -/

namespace Sys2Proof.Machine

/-! ### The grant decision (R17 to R19) -/

/-- The claimant the next grant goes to: the one already decided, else the choice of Table 1-12 (R17). -/
def grantee (a : Arbiter) : Option Claimant :=
  match a.decided with
  | some who => some who
  | none => chooseClaimant a

/-- The claim of the granted claimant is removed (R16), and the last grant class and last-served reader
follow the grant (R17, R18). -/
def recordGrant (who : Claimant) (a : Arbiter) : Arbiter :=
  match who with
  | .engine => { a with claims := markClaim a.claims .engine false, lastClass := .engine, decided := none }
  | .reader p =>
      { a with
        claims := markClaim a.claims (.reader p) false
        lastClass := .reader
        lastServed := p
        decided := none }
  | .audit => { a with claims := markClaim a.claims .audit false, decided := none }

/-! ### The reader's burst (R133, R134) -/

/-- The reply of a reader whose burst reads no word, none when it must read the entry's payload (Table 8-2). -/
def burstAnswer (s : State) (p : Port) (key : Nat) : Option (Code × List Byte) :=
  if keyDenied s p key then some (.denied, [])
  else
    match dirFind s.directory key with
    | none => some (.notFound, [])
    | some e =>
        match e.state with
        | .deleted => some (.deleted, readGoneBody e)
        | .lost => some (.lost, readGoneBody e)
        | .live => if e.w = 0 then some (.data, readDataBody e []) else none

/-- The payload bytes of an entry's record, pad bytes left out (R134). -/
def entryPayload (m : Memory) (e : DirEntry) : List Byte :=
  ((payloadWords m e.location e.w).flatMap wordBytes).take (payloadLength e)

/-- A reader is granted its burst: the lookup, and the answer at once or the hold (R70, R133). -/
def grantReader (p : Port) (s : State) : State :=
  match (s.port p).slot with
  | .working r =>
      match burstAnswer s p r.key with
      | some (code, body) => answer p (commandCode .read) r.tag code body s
      | none =>
          match dirFind s.directory r.key with
          | some e => { s with arbiter := { s.arbiter with holder := .reader p e } }
          | none => s
  | .empty => s
  | .replyReady => s

/-- The engine is granted the array for its prepared sequence (R10). -/
def grantEngine (q : Sequence) (s : State) : State :=
  startSequence q { s with arbiter := { s.arbiter with holder := .engine } }

/-- ARRAY_GRANT: while READY, a free array goes to its grantee (R15, R17). With the
array held or no claim pending no grant is due. -/
def execArrayGrant (s : State) : Host.Outcome State Fault Refusal :=
  if s.device = .ready ∧ s.arbiter.holder = .none then
    match grantee s.arbiter with
    | none => .next s
    | some who =>
        let s1 := { s with arbiter := recordGrant who s.arbiter }
        match who with
        | .engine =>
            match s.engine.seq with
            | none => .next s1
            | some q => if q.word < Config.arrayWords then .next (grantEngine q s1) else .fault .noSuchWord
        | .reader p => .next (grantReader p s1)
        | .audit => .next { s1 with arbiter := { s1.arbiter with holder := .audit } }
  else .next s

/-- PULSE_DONE: the pulse's effect on its cells, unless PGM_EN has already cut it, then the margin read
and its judgement (R2, R11, R12). With no pulse in progress it is not due. -/
def execPulseDone (effect : PulseEffect) (s : State) : Host.Outcome State Fault Refusal :=
  match runningSequence s with
  | none => .next s
  | some q =>
      if q.word < Config.arrayWords then .next (judgePulse q { s with array := pulsedArray s effect })
      else .fault .noSuchWord

/-- READ_BURST_END: the last payload word has been read; the reply is placed and the array released (R133,
R134). With no burst in progress it is not due. -/
def execReadBurstEnd (s : State) : Host.Outcome State Fault Refusal :=
  match s.arbiter.holder with
  | .reader p e =>
      if e.location + 1 + e.w < Config.arrayWords then
        match (s.port p).slot with
        | .working r =>
            .next (answer p (commandCode .read) r.tag .data (readDataBody e (entryPayload s.array e))
              (releaseArray s))
        | .empty => .next (releaseArray s)
        | .replyReady => .next (releaseArray s)
      else .fault .noSuchWord
  | .none => .next s
  | .engine => .next s
  | .audit => .next s

/-! ### The engine takes work (R30, R40) -/

/-- ENGINE_TAKE_JOB: the IDLE engine of a READY part takes the head job; its start checks, its first
preparation or its FINISHING follow in the same event (R30, R31). Otherwise it stays as it is. -/
def execEngineTakeJob (s : State) : Host.Outcome State Fault Refusal :=
  if s.device = .ready ∧ s.engine.state = .idle then
    match s.jobs with
    | [] => .next s
    | j :: rest => .next (takeJob j rest s)
  else .next s

/-- ENGINE_TAKE_REPAIR: IDLE, READY, queue empty, PGM_EN high: the oldest repair entry is taken (R40).
Otherwise the engine stays as it is. -/
def execEngineTakeRepair (s : State) : Host.Outcome State Fault Refusal :=
  if s.device = .ready ∧ s.engine.state = .idle ∧ s.jobs = [] ∧ s.pgmEn = true then
    match s.repair.entries with
    | [] => .next s
    | e :: _ => .next (takeRepair e s)
  else .next s

/-- ALERT_PULSE_END: the pulse ends, the line is released (R152). With no pulse in progress it is not due. -/
def execAlertPulseEnd (p : Port) (s : State) : Host.Outcome State Fault Refusal :=
  .next
    (if (s.port p).pulseActive then s.setPort p { s.port p with pulseActive := false, lineLow := false } else s)

end Sys2Proof.Machine
end

