-- ==== Sys2Proof/Machine/Mount.lean ====
section
/-! DEFINITION. The mount scan: its four phases and the events that complete them (chapter 7). -/

namespace Sys2Proof.Machine

/-- The mount runs phase `ph`: the part is MOUNTING, powered, RST is high again (R113, R177). -/
def mountDue (s : State) (ph : MountPhase) : Bool :=
  decide (s.device = .mounting) && s.powered && !s.rstLow && decide (s.mount.phase = ph)

/-! ### OPTIONS -/

/-- Words 0 to 37 at normal level (R98, R115). -/
def optionBlock (m : Memory) : List Word := (List.range Config.optionWords).map (readNormal m)

/-- The OPTIONS phase completes (R115). -/
def finishOptions (s : State) : State :=
  { s with policy := optionBlock s.array, mount := { s.mount with phase := .strips } }

/-! ### Offers of the mount -/

/-- One offer of the mount: the repair list's answer, FULL counted as dropped; withheld while the
auto-repair-off mark is in force (R104, R115, R120, R124). -/
def mountOffer (s : State) (e : RepairEntry) : State :=
  let report := s.mount.report
  if autoRepairOff s then
    { s with mount := { s.mount with report := { report with withheld := report.withheld + 1 } } }
  else
    { s with
      repair := offer s.repair e
      mount := { s.mount with
        report := { report with
          dropped := if offerAnswer s.repair e = .full then report.dropped + 1 else report.dropped } } }

/-- The mount makes its offers in order (R116, R120). -/
def mountOffers (es : List RepairEntry) (s : State) : State := es.foldl mountOffer s

/-! ### STRIPS -/

/-- The states of the 512 strips, strip 0 first (R116). -/
def stripClasses (m : Memory) : List StripClass :=
  (List.range Config.stripCount).map (classifyStrip m)

/-- One more than the highest strip that is not FREE, 0 when all are (R81). -/
def mountCursor (m : Memory) : Nat :=
  (List.range Config.stripCount).foldl (fun cursor s => if stripBlank m s then cursor else s + 1) 0

/-- The better of a best strip so far and a later strip: the greater base wins, a tie goes to the later
strip (R82). -/
def betterStrip (m : Memory) (c : Nat) (best : Option (Nat × Nat)) (s : Nat) : Option (Nat × Nat) :=
  match classifyStrip m s with
  | .claimed counter base =>
      if counter = c ∧ (best.map (fun b => b.2)).getD 0 ≤ base then some (s, base) else best
  | .free => best
  | .dead => best

/-- The current strip of counter `c` and its base, none when no strip is CLAIMED by it (R82). -/
def currentStrip (m : Memory) (c : Nat) : Option (Nat × Nat) :=
  (List.range Config.stripCount).foldl (betterStrip m c) none

/-- The entry of counter `c` built from the strips (R82). -/
def mountCounter (m : Memory) (c : Nat) : CounterEntry :=
  match currentStrip m c with
  | none => noStripEntry c
  | some (s, base) => ⟨c, some s, base, stripOnes m s, stripHighest m s, counterField (base + stripOnes m s)⟩

/-- The counter table built from the strips (R82). -/
def mountCounters (m : Memory) : List CounterEntry := (List.range 16).map (mountCounter m)

/-- A strip's claim word has a cell that reads set at normal and clear at margin (R116). -/
def claimWeak (m : Memory) (s : Nat) : Bool :=
  readNormal m (stripWord s 1) != readMargin m (stripWord s 1)

/-- The claim touch-up offers: the weak claims of current strips, in ascending word order (R116). -/
def claimOffers (m : Memory) (counters : List CounterEntry) : List RepairEntry :=
  ((List.range Config.stripCount).filter
      (fun s => counters.any (fun e => e.strip == some s) && claimWeak m s)).map
    (fun s => ⟨.touchUp, stripWord s 1⟩)

/-- A strip is CLAIMED. -/
def StripClass.isClaimed : StripClass → Bool
  | .claimed _ _ => true
  | .free => false
  | .dead => false

/-- The STRIPS phase completes (R116). -/
def finishStrips (s : State) : State :=
  let counters := mountCounters s.array
  let classes := stripClasses s.array
  let s1 := mountOffers (claimOffers s.array counters) s
  { s1 with
    counters := counters
    log := { s1.log with stripCursor := mountCursor s.array }
    mount := { s1.mount with
      phase := .records
      report := { s1.mount.report with
        claimedStrips := classes.countP StripClass.isClaimed
        deadStrips := classes.countP (fun c => c == .dead) } } }

/-! ### RECORDS -/

/-- What the record walk found: the records with a valid header in order, the number of TORN_HEADER
words, and where it stopped (R117). -/
structure Walk where
  found : List FoundRecord
  tornHeaders : Nat
  stop : Nat
deriving DecidableEq, Repr

/-- A record's sequence as read: the greater of its sequence word and one more than the one before it,
or 1 for the first (R45). -/
def sequenceRead (word : Word) (before : Option Nat) : Nat :=
  max word.toNat ((before.map (fun n => n + 1)).getD 1)

/-- The record walk from `pos`; `before` is the sequence as read of the nearest earlier record with a
valid header. Each step moves up, so `fuel` of one per word of the region suffices (R117, R118). -/
def walkRecords (m : Memory) (fuel pos : Nat) (before : Option Nat) : Walk :=
  match fuel with
  | 0 => ⟨[], 0, pos⟩
  | fuel + 1 =>
      if Config.arrayWords ≤ pos then ⟨[], 0, pos⟩
      else if readNormal m pos = 0#32 then ⟨[], 0, pos⟩
      else
        match spanHeader m pos with
        | none =>
            let r := walkRecords m fuel (pos + 1) before
            { r with tornHeaders := r.tornHeaders + 1 }
        | some hdr =>
            let seq := sequenceRead (readNormal m (pos + 1)) before
            let r := walkRecords m fuel (pos + spanLength hdr.w) (some seq)
            { r with
              found := ⟨pos, hdr, classifyRecord m pos, seq, isSoundCommit m pos hdr.w⟩ :: r.found }

/-- The whole record walk (R117). -/
def recordWalk (m : Memory) : Walk := walkRecords m Config.recordWords Config.recordStart none

/-- `r` loses its key to a later competing record of `later` (R73, R117). -/
def supersededBy (later : List FoundRecord) (r : FoundRecord) : Bool :=
  later.any (fun x => competes x.cls && x.header.key == r.header.key)

/-- The winners: of each key's CANDIDATE and DAMAGED records the latest, in the order of the log (R73). -/
def winners : List FoundRecord → List FoundRecord
  | [] => []
  | r :: rest =>
      if competes r.cls && !supersededBy rest r then r :: winners rest else winners rest

/-- The admitted winners: all when 1,024 or fewer, else sound commits before weak ones, each in ascending
sequence (R76). -/
def admitWinners (ws : List FoundRecord) : List FoundRecord :=
  if ws.length ≤ Config.directoryMax then ws
  else ((ws.filter (fun r => r.sound)) ++ (ws.filter (fun r => !r.sound))).take Config.directoryMax

/-- `r` is its key's winner among the admitted. -/
def isAdmitted (admitted : List FoundRecord) (r : FoundRecord) : Bool :=
  admitted.any (fun x => x.location == r.location)

/-- `r` is a stale record of an admitted key (R73, R120). -/
def isStale (admitted : List FoundRecord) (r : FoundRecord) : Bool :=
  competes r.cls && !isAdmitted admitted r && admitted.any (fun x => x.header.key == r.header.key)

/-- The key table of the admitted keys (Table 7-1, R120). -/
def keyTableOf (found admitted : List FoundRecord) : List KeyRecord :=
  admitted.map (fun x =>
    ⟨x.header.key, x, found.filter (fun r => isStale admitted r && r.header.key == x.header.key)⟩)

/-- The offer a record draws: RETIRE for a stale record, TOUCH_UP for a weak winner (R120). -/
def recordOffer (admitted : List FoundRecord) (r : FoundRecord) : Option RepairEntry :=
  if isStale admitted r then some ⟨.retire, retireIndex r.location r.header.w⟩
  else if isAdmitted admitted r ∧ r.sound = false then some ⟨.touchUp, commitIndex r.location r.header.w⟩
  else none

/-- The record offers in the order of the log, which is ascending word order (R120). -/
def recordOffers (found admitted : List FoundRecord) : List RepairEntry :=
  found.filterMap (recordOffer admitted)

/-- The greatest sequence as read, none when no record had a valid header (R118). -/
def greatestSequence (found : List FoundRecord) : Option Nat :=
  found.foldl (fun best r => some (max (best.getD 0) r.seq)) none

/-- The next sequence number after a mount: one more than the greatest sequence as read, as R119's first sentence
has it, where its third sentence would ask for more (DEDUCED, log entry 29). -/
def mountNextSeq (greatest : Option Nat) : Nat :=
  match greatest with
  | none => 1
  | some n => sequenceField (n + 1)

/-- The number of found records of a class. -/
def countClass (found : List FoundRecord) (c : RecordClass) : Nat := found.countP (fun r => r.cls == c)

/-- The RECORDS phase completes (R117 to R120). -/
def finishRecords (s : State) : State :=
  let walk := recordWalk s.array
  let ws := winners walk.found
  let admitted := admitWinners ws
  let greatest := greatestSequence walk.found
  let s1 := mountOffers (recordOffers walk.found admitted) s
  { s1 with
    log := { s1.log with appendPoint := walk.stop, nextSeq := mountNextSeq greatest }
    mount := { s1.mount with
      phase := .sort
      walk := walk.stop
      keyTable := keyTableOf walk.found admitted
      greatest := greatest
      report := { s1.mount.report with
        notAdmitted := ws.length - admitted.length
        torn := countClass walk.found .torn
        tornHeader := walk.tornHeaders
        damaged := countClass walk.found .damaged
        stale := walk.found.countP (isStale admitted)
        retired := countClass walk.found .retired
        appendPoint := walk.stop
        freeWords := freeWords walk.stop
        nextSeq := mountNextSeq greatest } } }

/-! ### SORT -/

/-- The state of an entry made from a winner (Table 4-5). -/
def winnerState (r : FoundRecord) : EntryState :=
  if r.cls = .damaged then .lost else if r.header.kind = .data then .live else .deleted

/-- The directory entry made from an admitted key's winner, W and pad from its header as R74 says; for a
TOMBSTONE whose header holds W above 0 R77 says 0 (log entry 26). -/
def winnerEntry (k : KeyRecord) : DirEntry :=
  ⟨k.key, winnerState k.winner, k.winner.location, k.winner.header.w, k.winner.header.pad,
    sequenceField k.winner.seq, k.winner.header.writer⟩

/-- The directory of the admitted winners, in ascending order of key (R66, R121). -/
def buildDirectory (table : List KeyRecord) : List DirEntry :=
  table.foldl (fun d k => dirPut d (winnerEntry k)) []

/-- The number of entries of a state. -/
def countState (d : List DirEntry) (st : EntryState) : Nat := d.countP (fun e => e.state == st)

/-- The MOUNT_DONE notice (Table 9-2). -/
def mountDoneNotice : Notice := ⟨.mountDone, 0, 0#32, none⟩

/-- The SORT phase completes: the directory is built, the part is READY, MOUNT_DONE is posted and the
lines take their modes (R121, R153). The scanner's working memory ends with the mount. -/
def finishSort (s : State) : State :=
  let d := buildDirectory s.mount.keyTable
  postNotice mountDoneNotice
    { s with
      directory := d
      device := .ready
      mount :=
        { s.mount with
          phase := .ready
          walk := Config.recordStart
          keyTable := []
          greatest := none
          report := { s.mount.report with
            live := countState d .live
            deleted := countState d .deleted
            lost := countState d .lost } } }

/-! ### The four events -/

/-- MOUNT_OPTIONS (R115). -/
def execMountOptions (s : State) : Host.Outcome State Fault Refusal :=
  .next (if mountDue s .options then finishOptions s else s)

/-- MOUNT_STRIPS (R116). -/
def execMountStrips (s : State) : Host.Outcome State Fault Refusal :=
  .next (if mountDue s .strips then finishStrips s else s)

/-- MOUNT_RECORDS (R117). -/
def execMountRecords (s : State) : Host.Outcome State Fault Refusal :=
  .next (if mountDue s .records then finishRecords s else s)

/-- MOUNT_SORT (R121). -/
def execMountSort (s : State) : Host.Outcome State Fault Refusal :=
  .next (if mountDue s .sort then finishSort s else s)

end Sys2Proof.Machine
end

