-- ==== Sys2Proof/Machine/Resets.lean ====
section
/-! DEFINITION. Device reset, power and the PGM_EN pin (R3, R12, R14, R41, R113, R165, R177). -/

namespace Sys2Proof.Machine

/-- The part after a device reset event: RAM state at its reset values, RST low, the mount not begun; the
array, the PGM_EN pin and Port C's sampled address stay (R1, R113, R156, R177). -/
def afterReset (array : Memory) (s : State) : State :=
  { State.reset with array := array, pgmEn := s.pgmEn, portCAdr := s.portCAdr, pending := s.pending }

/-- DEVICE_RESET, by a fall of RST or power-on: a pulse being applied is cut and acts on its cells, every
grant ends, RAM is emptied (R14, R41, R113, R114, R165). -/
def execDeviceReset (cut : PulseEffect) (s : State) : Host.Outcome State Fault Refusal :=
  .next (afterReset (pulsedArray s cut) s)

/-- POWER_LOSS: on the array as a device reset; the part has no supply until it starts from power-on
(R14). -/
def execPowerLoss (cut : PulseEffect) (s : State) : Host.Outcome State Fault Refusal :=
  .next { afterReset (pulsedArray s cut) s with powered := false }

/-- RST_RELEASE: RST returns high, or the supply reaches its range after power-on; Port C samples ADR1
and ADR0 and the mount's reads begin (R156, R177). With RST already high it is not due. -/
def execRstRelease (adr : BitVec 2) (s : State) : Host.Outcome State Fault Refusal :=
  .next (if s.rstLow then { s with powered := true, rstLow := false, portCAdr := adr } else s)

/-- PGM_EN_RISE (R12). -/
def execPgmEnRise (s : State) : Host.Outcome State Fault Refusal := .next { s with pgmEn := true }

/-- The mark that the pulse in progress has been cut (R3). -/
def markCut (e : Engine) : Engine :=
  if e.state = .programming then { e with seq := e.seq.map (fun q => { q with cut := true }) } else e

/-- PGM_EN_FALL: a pulse being applied is cut and acts on its cells as R3 gives; its margin read still
follows, at PULSE_DONE (R12). -/
def execPgmEnFall (cut : PulseEffect) (s : State) : Host.Outcome State Fault Refusal :=
  .next { s with pgmEn := false, array := pulsedArray s cut, engine := markCut s.engine }

end Sys2Proof.Machine
end

