-- ==== Sys2Proof/Machine/Dispatch.lean ====
section
/-! DEFINITION. One arm per row of spec/opcode_table.json. -/

namespace Sys2Proof.Machine

def exec (i : Instr) (s : State) : Host.Outcome State Fault Refusal :=
  match i with
  | .deviceReset cut => Sys2Proof.Machine.execDeviceReset cut s
  | .powerLoss cut => Sys2Proof.Machine.execPowerLoss cut s
  | .rstRelease adr => Sys2Proof.Machine.execRstRelease adr s
  | .mountOptions => Sys2Proof.Machine.execMountOptions s
  | .mountStrips => Sys2Proof.Machine.execMountStrips s
  | .mountRecords => Sys2Proof.Machine.execMountRecords s
  | .mountSort => Sys2Proof.Machine.execMountSort s
  | .pgmEnRise => Sys2Proof.Machine.execPgmEnRise s
  | .pgmEnFall cut => Sys2Proof.Machine.execPgmEnFall cut s
  | .incompleteFrame bus bytes => Sys2Proof.Machine.execIncompleteFrame bus bytes s
  | .unknownCommand bus code f => Sys2Proof.Machine.execUnknownCommand bus code f s
  | .read bus f => Sys2Proof.Machine.execRead bus f s
  | .info bus f => Sys2Proof.Machine.execInfo bus f s
  | .list bus f => Sys2Proof.Machine.execList bus f s
  | .countRead bus f => Sys2Proof.Machine.execCountRead bus f s
  | .policyRead bus f => Sys2Proof.Machine.execPolicyRead bus f s
  | .status bus f => Sys2Proof.Machine.execStatus bus f s
  | .identify bus f => Sys2Proof.Machine.execIdentify bus f s
  | .auditReport bus f => Sys2Proof.Machine.execAuditReport bus f s
  | .subscribe bus f => Sys2Proof.Machine.execSubscribe bus f s
  | .unsubscribe bus f => Sys2Proof.Machine.execUnsubscribe bus f s
  | .setAlertMask bus f => Sys2Proof.Machine.execSetAlertMask bus f s
  | .portReset bus f => Sys2Proof.Machine.execPortReset bus f s
  | .append bus f => Sys2Proof.Machine.execAppend bus f s
  | .delete bus f => Sys2Proof.Machine.execDelete bus f s
  | .countAdvance bus f => Sys2Proof.Machine.execCountAdvance bus f s
  | .countRaise bus f => Sys2Proof.Machine.execCountRaise bus f s
  | .restrict bus f => Sys2Proof.Machine.execRestrict bus f s
  | .setOption bus f => Sys2Proof.Machine.execSetOption bus f s
  | .close bus f => Sys2Proof.Machine.execClose bus f s
  | .audit bus f => Sys2Proof.Machine.execAudit bus f s
  | .fetchReply bus => Sys2Proof.Machine.execFetchReply bus s
  | .fetchResult bus => Sys2Proof.Machine.execFetchResult bus s
  | .fetchNotice bus => Sys2Proof.Machine.execFetchNotice bus s
  | .portStatus bus => Sys2Proof.Machine.execPortStatus bus s
  | .lastSelectorWrite addr bytes => Sys2Proof.Machine.execLastSelectorWrite addr bytes s
  | .engineTakeJob => Sys2Proof.Machine.execEngineTakeJob s
  | .engineTakeRepair => Sys2Proof.Machine.execEngineTakeRepair s
  | .arrayGrant => Sys2Proof.Machine.execArrayGrant s
  | .pulseDone effect => Sys2Proof.Machine.execPulseDone effect s
  | .alertPulseEnd p => Sys2Proof.Machine.execAlertPulseEnd p s
  | .readBurstEnd => Sys2Proof.Machine.execReadBurstEnd s
  | .auditUnitEnd => Sys2Proof.Machine.execAuditUnitEnd s
  | .frameDiscard bus bytes => Sys2Proof.Machine.execFrameDiscard bus bytes s

end Sys2Proof.Machine
end

