-- ==== Sys2Proof/WellFormed.lean ====
section
/-! DEFINITION. Which operands a row of the table is the right name for. `exec` is total on all of them. -/

namespace Sys2Proof

open Machine

/-- A command's operands fit its row: a command frame is complete (R157), an UNKNOWN_COMMAND's code is
outside Table 12-3 (R159), an INCOMPLETE_FRAME's bytes are incomplete (R157), a FRAME_DISCARD's are
complete (R158), and a LAST_SELECTOR_WRITE writes a fetch or PORT-STATUS selector (R156). -/
def Instr.wellFormed : Instr → Bool
  | .deviceReset _ => true
  | .powerLoss _ => true
  | .rstRelease _ => true
  | .mountOptions => true
  | .mountStrips => true
  | .mountRecords => true
  | .mountSort => true
  | .pgmEnRise => true
  | .pgmEnFall _ => true
  | .incompleteFrame _ bytes => frameIncomplete bytes
  | .unknownCommand _ code f => (commandOf code).isNone && !frameIncomplete (frameBytes code f)
  | .read _ f => !frameIncomplete (frameBytes (commandCode .read) f)
  | .info _ f => !frameIncomplete (frameBytes (commandCode .info) f)
  | .list _ f => !frameIncomplete (frameBytes (commandCode .list) f)
  | .countRead _ f => !frameIncomplete (frameBytes (commandCode .countRead) f)
  | .policyRead _ f => !frameIncomplete (frameBytes (commandCode .policyRead) f)
  | .status _ f => !frameIncomplete (frameBytes (commandCode .status) f)
  | .identify _ f => !frameIncomplete (frameBytes (commandCode .identify) f)
  | .auditReport _ f => !frameIncomplete (frameBytes (commandCode .auditReport) f)
  | .subscribe _ f => !frameIncomplete (frameBytes (commandCode .subscribe) f)
  | .unsubscribe _ f => !frameIncomplete (frameBytes (commandCode .unsubscribe) f)
  | .setAlertMask _ f => !frameIncomplete (frameBytes (commandCode .setAlertMask) f)
  | .portReset _ f => !frameIncomplete (frameBytes (commandCode .portReset) f)
  | .append _ f => !frameIncomplete (frameBytes (commandCode .append) f)
  | .delete _ f => !frameIncomplete (frameBytes (commandCode .delete) f)
  | .countAdvance _ f => !frameIncomplete (frameBytes (commandCode .countAdvance) f)
  | .countRaise _ f => !frameIncomplete (frameBytes (commandCode .countRaise) f)
  | .restrict _ f => !frameIncomplete (frameBytes (commandCode .restrict) f)
  | .setOption _ f => !frameIncomplete (frameBytes (commandCode .setOption) f)
  | .close _ f => !frameIncomplete (frameBytes (commandCode .close) f)
  | .audit _ f => !frameIncomplete (frameBytes (commandCode .audit) f)
  | .fetchReply _ => true
  | .fetchResult _ => true
  | .fetchNotice _ => true
  | .portStatus _ => true
  | .lastSelectorWrite _ bytes =>
      match bytes with
      | [] => false
      | sel :: _ => (selectorOf sel).isSome && selectorOf sel != some .sendFrame
  | .engineTakeJob => true
  | .engineTakeRepair => true
  | .arrayGrant => true
  | .pulseDone _ => true
  | .alertPulseEnd _ => true
  | .readBurstEnd => true
  | .auditUnitEnd => true
  | .frameDiscard _ bytes => !frameIncomplete bytes

end Sys2Proof
end

