-- ==== Sys2Proof/Safety.lean ====
section
/-! DEFINITION. What holds of every state a run reaches (laws L1 to L11 as far as one state shows them), and the
words the statements use. -/

namespace Sys2Proof.Machine

/-! ### Frames -/

/-- The slot of a port is EMPTY or REPLY_READY: a complete frame that arrives is taken (R158). -/
def slotFree (q : PortState) : Bool :=
  match q.slot with
  | .empty => true
  | .replyReady => true
  | .working _ => false

/-- A complete frame on `bus` reaches port `p` and is taken there. -/
abbrev Takes (s : State) (bus : Bus) (p : Port) : Prop :=
  reachedPort s bus = some p ∧ slotFree (s.port p) = true

/-- Port `p` has answered a frame whose command code is `cmd`: the reply is in its buffer, its slot is
REPLY_READY, the SEND-FRAME transaction is noted (R155, R156), and nothing else is changed. -/
def State.answered (s : State) (p : Port) (cmd tag : Byte) (code : Code) (body : List Byte) : State :=
  noteSendFrame p (s.setPort p { s.port p with slot := .replyReady, reply := some ⟨code, cmd, tag, body⟩ })

/-- Byte `i` of a frame's parameters as a number. -/
def byteAt (ps : List Byte) (i : Nat) : Nat := (ps.getD i 0#8).toNat

/-- A two-byte field of a frame's parameters, least-significant byte first. -/
def pairAt (ps : List Byte) (i : Nat) : Nat := byteAt ps i + 256 * byteAt ps (i + 1)

/-- A key of 1 to 4094 in the first two bytes. -/
def keyFits (ps : List Byte) : Bool := decide (1 ≤ pairAt ps 0) && decide (pairAt ps 0 ≤ 4094)

/-- A frame's parameters have the length of Table 12-6 and lie in the ranges of R174. -/
def paramsFit (cmd : Command) (ps : List Byte) : Bool :=
  match cmd with
  | .read => ps.length == 2 && keyFits ps
  | .info => ps.length == 2 && keyFits ps
  | .list => ps.length == 2 && keyFits ps
  | .countRead => ps.length == 1 && decide (byteAt ps 0 ≤ 15)
  | .policyRead => ps.length == 1 && decide (byteAt ps 0 ≤ 31)
  | .status => ps.length == 0
  | .identify => ps.length == 0
  | .auditReport => ps.length == 0
  | .subscribe => subscriptionFits ps
  | .unsubscribe => subscriptionFits ps
  | .setAlertMask => ps.length == 1 && decide (byteAt ps 0 < 64)
  | .portReset => ps.length == 0
  | .append =>
      decide (7 ≤ ps.length) && decide (ps.length ≤ 243) && keyFits ps && decide (byteAt ps 2 ≤ 1)
  | .delete => ps.length == 7 && keyFits ps && decide (byteAt ps 2 ≤ 1)
  | .countAdvance => ps.length == 3 && decide (byteAt ps 0 ≤ 15) && decide (1 ≤ pairAt ps 1)
  | .countRaise => ps.length == 4 && decide (byteAt ps 0 ≤ 15)
  | .restrict =>
      ps.length == 2 && decide (byteAt ps 0 ≤ 31) && decide (1 ≤ byteAt ps 1) && decide (byteAt ps 1 ≤ 127)
  | .setOption => ps.length == 1 && decide (1 ≤ byteAt ps 0) && decide (byteAt ps 0 ≤ 31)
  | .close => ps.length == 0
  | .audit => ps.length == 1 && decide (byteAt ps 0 ≤ 1)
where
  /-- A subscription of kind KEY with a key, or COUNTER with a counter id (Table 9-1). -/
  subscriptionFits (ps : List Byte) : Bool :=
    ps.length == 3 &&
      ((byteAt ps 0 == 0 && decide (1 ≤ pairAt ps 1) && decide (pairAt ps 1 ≤ 4094)) ||
        (byteAt ps 0 == 1 && decide (pairAt ps 1 ≤ 15)))

/-- The parameters that name a subscription (Tables 9-1, 12-6). -/
def subscriptionParams (x : Subscription) : List Byte :=
  (match x.kind with
    | .key => 0x00#8
    | .counter => 0x01#8) :: leBytes x.id 2

/-- A subscription names a key of 1 to 4094 or a counter of 0 to 15 (Table 9-1). -/
def subscriptionInRange (x : Subscription) : Bool :=
  match x.kind with
  | .key => decide (1 ≤ x.id) && decide (x.id ≤ 4094)
  | .counter => decide (x.id ≤ 15)

/-- A fetch or PORT-STATUS on `bus` reaches port `p` with the effect of `sel` (R155, R156). -/
abbrev Fetches (s : State) (bus : Bus) (p : Port) (sel : Selector) : Prop :=
  reachedPort s bus = some p ∧ (p = .c → s.lastSelector = sel)

/-! ### Jobs -/

/-- A policy target of Table 12-5: group 0 to 15 or counter 0 to 15. -/
def targetInRange : PolicyTarget → Bool
  | .group g => decide (g ≤ 15)
  | .counter c => decide (c ≤ 15)

/-- An expected sequence that four bytes can carry. -/
def expectedInRange (expected : Option Nat) : Bool := expected.all (fun n => decide (n < 4294967296))

/-- A job's parameters lie in the ranges of Table 2-3 (and R174). -/
def kindInRange : JobKind → Bool
  | .append key expected payload =>
      decide (1 ≤ key) && decide (key ≤ 4094) && expectedInRange expected && decide (payload.length ≤ 236)
  | .delete key expected => decide (1 ≤ key) && decide (key ≤ 4094) && expectedInRange expected
  | .countAdvance c n => decide (c ≤ 15) && decide (1 ≤ n) && decide (n ≤ 65535)
  | .countRaise c v => decide (c ≤ 15) && decide (v ≤ 16777215)
  | .restrict target marks => targetInRange target && marks.getLsbD 7 == false && marks != 0#8
  | .setOption marks => decide (marks.toNat < 32) && marks != 0#8
  | .close => true

/-- The expected-present byte and the four expected-sequence bytes (Table 12-6). -/
def expectedBytes : Option Nat → List Byte
  | none => [0x00#8, 0x00#8, 0x00#8, 0x00#8, 0x00#8]
  | some n => 0x01#8 :: leBytes n 4

/-- The parameters a host sends for a job (Table 12-6). -/
def jobParams : JobKind → List Byte
  | .append key expected payload => leBytes key 2 ++ expectedBytes expected ++ payload
  | .delete key expected => leBytes key 2 ++ expectedBytes expected
  | .countAdvance c n => BitVec.ofNat 8 c :: leBytes n 2
  | .countRaise c v => BitVec.ofNat 8 c :: leBytes v 3
  | .restrict target marks => [targetByte target, marks]
  | .setOption marks => [marks]
  | .close => []

/-- The row of a job frame with these parameters on `bus`. -/
def jobRow (bus : Bus) (tag : Byte) (k : JobKind) : Instr :=
  commandRow bus (goodFrame (jobCommand k) tag (jobParams k)) (jobCommand k)

/-- A job that ends at its start checks: the result with sequence 0 and attempt count 0 is delivered, the
engine rests (R31, R37, R61). -/
def endedAtStart (s : State) (j : Job) (rest : List Job) (code : Code) : State :=
  { deliverResult j.port j.orphan
      ⟨code, j.tag, jobCommand j.kind,
        .job 0 (((jobCounter j.kind).map (fun c => (counterEntry s c).value)).getD 0) false 0⟩
      { s with jobs := rest } with
    engine := Engine.resting }

/-- The engine IDLE in a READY part, with `j` at the head of the job queue (R30). -/
abbrev HeadJob (s : State) (j : Job) (rest : List Job) : Prop :=
  s.device = .ready ∧ s.engine.state = .idle ∧ s.jobs = j :: rest

/-- The general start checks of Table 2-7 pass for job `j`. -/
abbrev GeneralChecksPass (s : State) (j : Job) : Prop :=
  s.pgmEn = true ∧ accessRefusal s j.port j.kind = none ∧ lifeCycleRefusal s j.port j.kind = none

/-- The engine WAITING with work `work` for job `j` and a sequence for `word` with target `target`, its claim
entered, its last margin value the model's 0 (log entry 28); the queue holds `rest` (R33). -/
def waitingFor (s : State) (j : Job) (rest : List Job) (work : Work) (word : Nat) (target : Word) : State :=
  { s with
    jobs := rest
    engine := ⟨.waiting, some j, none, work, some ⟨word, target, 0, 0#32, false⟩⟩
    arbiter := claimEntered .engine s.arbiter }

/-- A span at the append point, its header prepared (R43, R46, R53). -/
def recordStarted (s : State) (j : Job) (rest : List Job) (key : Nat) (kind : RecordKind)
    (payload : List Byte) : State :=
  let w := (payload.length + 3) / 4
  let header := encodeHeader ⟨key, w, 4 * w - payload.length, kind, j.port⟩
  let words := packPayload payload
  let check :=
    crc32 ((header :: BitVec.ofNat 32 s.log.nextSeq :: words).flatMap (fun v => leBytes v.toNat 4))
  { waitingFor s j rest
      (.record
        ⟨1,
          some ⟨s.log.appendPoint, w, 4 * w - payload.length, s.log.nextSeq, header, words, check⟩,
          .header, none⟩)
      s.log.appendPoint header with
    log := ⟨s.log.appendPoint + (5 + w), s.log.nextSeq + 1, s.log.stripCursor⟩ }

/-! ### How jobs and audits end and go on -/

/-- The ring of a port after notice `n` arrives (R148). -/
def ringWith (q : PortState) (n : Notice) : List Notice :=
  if 16 ≤ q.ring.length then q.ring.drop 1 ++ [n] else q.ring ++ [n]

/-- A port after an arrival has moved its line: in LEVEL mode it is judged from the work waiting, in PULSE mode an
arrival whose enable is on leaves a pulse active and the line low (R151, R152). -/
def lineMoved (level enabled : Bool) (q : PortState) : PortState :=
  if level then { q with lineLow := workWaiting q }
  else if enabled then { q with pulseActive := true, lineLow := true } else q

/-- A port, in LEVEL mode or not, after notice `n` has arrived: at the ring's end, the wrapped flag set when the
oldest was dropped for it, and the line moved (R148, R151, R152). -/
def noticed (level : Bool) (n : Notice) (q : PortState) : PortState :=
  lineMoved level
    (q.mask.getLsbD
      (match n.kind with
        | .keyWritten => 0
        | .keyDeleted => 1
        | .counterMoved => 2
        | .policyChanged => 3
        | .mountDone => 4))
    { q with ring := ringWith q n, wrapped := if 16 ≤ q.ring.length then true else q.wrapped }

/-- A port, in LEVEL mode or not, after a job or audit of it has ended: result `r` at its queue's tail and the line
moved, or for an orphan neither, and the outstanding count lowered (R26, R37, R39, R151, R152). -/
def jobEnded (level orphan : Bool) (r : Result) (q : PortState) : PortState :=
  if orphan then { q with outstanding := q.outstanding - 1 }
  else
    { lineMoved level (q.mask.getLsbD 5) { q with results := q.results ++ [r] } with
      outstanding := q.outstanding - 1 }

/-- The alert-level mark of port `p` is in force (R102). -/
def alertLevel (s : State) (p : Port) : Bool := (copyWord s 1).getLsbD (portIndex p)

/-- In `t` the ports alone may differ from `s`. -/
abbrev PortsChanged (s t : State) : Prop :=
  t = { s with portA := t.portA, portB := t.portB, portC := t.portC }

/-- Job `j` has ended in `t` with result `r` at its own port, and no other port has changed (R37). -/
abbrev Resulted (s t : State) (j : Job) (r : Result) : Prop :=
  ∀ p : Port, t.port p = if p = j.port then jobEnded (alertLevel s p) j.orphan r (s.port p) else s.port p

/-- The APPEND or DELETE in hand of `s` has ended in `t` short of its commit point: its result carries `code`, the
last span's sequence and the attempt count; directory, array, notices and next sequence number stay, the append
point is `point` (R59, R61, R62). -/
abbrev RecordJobEnded (s t : State) (j : Job) (w : RecordWork) (sp : Span) (code : Code) (point : Nat) : Prop :=
  PortsChanged { s with engine := Engine.resting, log := ⟨point, s.log.nextSeq, s.log.stripCursor⟩ } t ∧
  Resulted s t j ⟨code, j.tag, jobCommand j.kind, .job sp.seq 0 false w.attempts⟩

/-- An attempt at the record of `key` has failed in `s`, the append point at `point`; in `t` the job has ended
PROGRAM_FAIL, PROTECTED or NO_SPACE, or a fresh span with the next sequence number, its check computed anew (log
entry 24), waits for its header, its last margin value the model's 0 (log entry 28; R59). -/
abbrev Relocated (s t : State) (j : Job) (w : RecordWork) (sp : Span) (key : Nat) (kind : RecordKind)
    (payload : List Byte) (point : Nat) : Prop :=
  ∀ size : Nat, size = 5 + (payload.length + 3) / 4 →
    (3 ≤ w.attempts → RecordJobEnded s t j w sp .programFail point) ∧
    (w.attempts < 3 → s.pgmEn = false → RecordJobEnded s t j w sp .isProtected point) ∧
    (w.attempts < 3 → s.pgmEn = true → 16384 < point + size ∨ 4294967295 ≤ s.log.nextSeq →
      RecordJobEnded s t j w sp .noSpace point) ∧
    (w.attempts < 3 → s.pgmEn = true → point + size ≤ 16384 → s.log.nextSeq < 4294967295 →
      ∀ (pad : Nat) (header check : Word) (words : List Word), pad = 4 * (size - 5) - payload.length →
        header = encodeHeader ⟨key, size - 5, pad, kind, j.port⟩ → words = packPayload payload →
        check = crc32 ((header :: BitVec.ofNat 32 s.log.nextSeq :: words).flatMap (fun v => leBytes v.toNat 4)) →
        t = { s with
          log := ⟨point + size, s.log.nextSeq + 1, s.log.stripCursor⟩
          arbiter := claimEntered .engine s.arbiter
          engine :=
            ⟨.waiting, some j, none,
              .record { w with
                attempts := w.attempts + 1
                span := some ⟨point, size - 5, pad, s.log.nextSeq, header, words, check⟩
                next := .header },
              some ⟨point, header, 0, 0#32, false⟩⟩ })

/-- Every counter's entry in `t` is that of `s`, but counter `c`'s is `e`. -/
abbrev CounterSet (s t : State) (c : Nat) (e : CounterEntry) : Prop :=
  counterEntry t c = e ∧ ∀ other : Nat, other ≠ c → counterEntry t other = counterEntry s other

/-- The counter job in hand of `s` has ended in `t`, the counter's entry then being `e`: its result carries `code`
and the value reached, and COUNTER_MOVED went to the subscribed ports if the value differs from the one at the
start (R93). -/
abbrev CounterJobEnded (s t : State) (j : Job) (w : CounterWork) (e : CounterEntry) (code : Code)
    (cursor : Nat) : Prop :=
  PortsChanged
    { s with engine := Engine.resting, counters := t.counters, log := { s.log with stripCursor := cursor } } t ∧
  CounterSet s t w.counter e ∧
  ∀ p : Port, t.port p =
    if p = j.port then
      jobEnded (alertLevel s p) j.orphan
        ⟨code, j.tag, jobCommand j.kind, .job 0 e.value false w.openAttempts⟩ (s.port p)
    else if e.value ≠ w.start ∧ ⟨.counter, w.counter⟩ ∈ (s.port p).subs ∧
        counterDenied s p w.counter = false then
      noticed (alertLevel s p) ⟨.counterMoved, w.counter, BitVec.ofNat 32 e.value, some j.port⟩ (s.port p)
    else s.port p

/-- A counter job ends PARTIAL when the value `v` differs from the one at its start, `otherwise` if not (R92,
R94). -/
def shortCode (w : CounterWork) (v : Nat) (otherwise : Code) : Code :=
  if v = w.start then otherwise else .partialMove

/-- The counter job in hand of `s` goes on in `t` as `w`: the sequence for `word` with target `target` waits, the
counter's entry is `e` (R33); its last margin value is the model's 0 (log entry 28). -/
abbrev CounterJobWaits (s t : State) (j : Job) (w : CounterWork) (e : CounterEntry) (word : Nat) (target : Word)
    (cursor : Nat) : Prop :=
  t = { s with
    engine := ⟨.waiting, some j, none, .counter w, some ⟨word, target, 0, 0#32, false⟩⟩
    arbiter := claimEntered .engine s.arbiter
    counters := t.counters
    log := { s.log with stripCursor := cursor } } ∧
  CounterSet s t w.counter e

/-- The counter job in hand needs a strip: with PGM_EN low it is abandoned, at cursor 512 it ends, else the
strip at the cursor is allocated and its base word prepared (R89, R92, R94). -/
abbrev StripNeeded (s t : State) (j : Job) (w : CounterWork) (e : CounterEntry) (cursor : Nat) : Prop :=
  (s.pgmEn = false → CounterJobEnded s t j w e (shortCode w e.value .isProtected) cursor) ∧
  (s.pgmEn = true → 512 ≤ cursor → CounterJobEnded s t j w e (shortCode w e.value .noStrip) cursor) ∧
  (s.pgmEn = true → cursor < 512 →
    CounterJobWaits s t j { w with openAttempts := w.openAttempts + 1, opening := some (cursor, .base) } e
      (38 + 8 * cursor) (encodeBase w.target) (cursor + 1))

/-- An open attempt has failed, the cursor at `cursor`: a second attempt, or the end of the job (R92). -/
abbrev OpenFailed (s t : State) (j : Job) (w : CounterWork) (e : CounterEntry) (cursor : Nat) : Prop :=
  (w.openAttempts < 2 → StripNeeded s t j { w with opening := none } e cursor) ∧
  (2 ≤ w.openAttempts → CounterJobEnded s t j w e (shortCode w e.value .programFail) cursor)

/-- The audit's walk goes on in `t` from `position` of `stage`: it claims the next unit, changes over to strip 0 at
the captured append point, or completes at the captured cursor, and then its result is appended, or discarded for
an orphan, and the requester's outstanding count falls (R167, R170); what a completed audit keeps of its requester,
flags, captures, stage and position is the model's choice (log entry 17). -/
abbrev AuditWentOn (s t : State) (stage : AuditStage) (position : Nat) : Prop :=
  PortsChanged { s with audit := t.audit, arbiter := t.arbiter, repair := t.repair } t ∧
  t.repair.done = s.repair.done ∧ t.repair.failed = s.repair.failed ∧
  t.audit = { s.audit with
    running := t.audit.running, stage := t.audit.stage, position := t.audit.position,
    findings := t.audit.findings, overflow := t.audit.overflow, added := t.audit.added,
    dropped := t.audit.dropped } ∧
  (stage = .records → position < s.audit.capturedAppend.getD 0 →
    t.audit.running = true ∧ t.audit.stage = .records ∧ t.audit.position = position) ∧
  (stage = .strips ∨ s.audit.capturedAppend.getD 0 ≤ position →
    t.audit.stage = .strips ∧ t.audit.position = (if stage = .strips then position else 0) ∧
    (t.audit.running = true ↔ t.audit.position < s.audit.capturedCursor.getD 0)) ∧
  t.arbiter =
    { s.arbiter with
      holder := .none
      claims := if t.audit.running = true then markClaim s.arbiter.claims .audit true else s.arbiter.claims } ∧
  (t.audit.running = true → ∀ p : Port, t.port p = s.port p) ∧
  (t.audit.running = false → ∀ (port : Port) (tag : Byte), s.audit.requester = some (port, tag) →
    ∀ p : Port, t.port p =
      if p = port then
        jobEnded (alertLevel s p) s.audit.orphan
          ⟨.ok, tag, .audit,
            .audit (t.audit.findings.length + t.audit.overflow) t.audit.added t.audit.dropped⟩ (s.port p)
      else s.port p)

/-- The audit has made `found` in `t`: the first 16 are listed and the rest counted (R168). -/
abbrev FindingsMade (s t : State) (found : List Finding) : Prop :=
  t.audit.findings = (s.audit.findings ++ found).take 16 ∧
  t.audit.overflow = s.audit.overflow + (s.audit.findings.length + found.length - 16)

/-- Of the words `words`, in this order, those the repair list does not name are offered as TOUCH_UP: the first
that fit are ADDED, the others FULL; with `offers` off nothing is offered (R124, R169). -/
abbrev TouchUpsOffered (s t : State) (offers : Bool) (words : List Nat) : Prop :=
  ∀ fresh : List Nat,
    fresh = (if offers = true then words.filter (fun i => !s.repair.entries.any (fun e => e.word == i)) else []) →
    t.repair.entries = s.repair.entries ++
      (fresh.take (32 - s.repair.entries.length)).map (fun i => ⟨.touchUp, i⟩) ∧
    t.audit.added = s.audit.added + min fresh.length (32 - s.repair.entries.length) ∧
    t.audit.dropped = s.audit.dropped + (fresh.length - (32 - s.repair.entries.length))

/-! ### The array -/

/-- No cell of `m` is in a lower state in `m'`: what reads set at normal or margin level still does (law L1). -/
abbrev CellsRise (m m' : Memory) : Prop :=
  ∀ i : Nat, readNormal m i &&& ~~~ readNormal m' i = 0#32 ∧ readMargin m i &&& ~~~ readMargin m' i = 0#32

/-- What a pulse with effect `e` that ends now leaves of the array: with no pulse in progress, or one already
cut, nothing changes; otherwise the sequence's word alone takes the pulse (R2, R3, R11). -/
abbrev PulsedTo (s : State) (e : PulseEffect) (m : Memory) : Prop :=
  match runningSequence s with
  | none => m = s.array
  | some q =>
      if q.cut = true then m = s.array
      else ∀ i : Nat, cellsAt m i =
        if i = q.word then pulseCells (cellsAt s.array i) (q.target &&& ~~~ q.margin) e else cellsAt s.array i

/-! ### The engine (law L10) -/

/-- The working state of the active job is the one its kind asks for, and a policy job's sequence is of its
own word. -/
def workFits (e : Engine) (j : Job) : Bool :=
  match e.work with
  | .none => false
  | .record w => w.span.isSome && (recordFields j.kind).isSome
  | .counter w => jobCounter j.kind == some w.counter
  | .policy _ =>
      match e.seq, policyRequest j.kind with
      | some q, some request => q.word == request.1
      | _, _ => false

/-- The engine has a sequence for one repair entry or for one job, not both (R29). -/
def engineBusy (e : Engine) : Bool :=
  e.seq.isSome &&
    match e.repair, e.job with
    | some _, none => true
    | none, some j => workFits e j
    | none, none => false
    | some _, some _ => false

/-- Between events the engine is IDLE with nothing in hand, WAITING with its claim pending, or PROGRAMMING
with the array held (R29, R33; CHECKING and FINISHING begin and end within one event). -/
abbrev EngineOk (s : State) : Prop :=
  (s.engine.state = .idle → s.engine = Engine.resting) ∧
  (s.engine.state ≠ .idle → engineBusy s.engine = true) ∧
  s.engine.state ≠ .checking ∧ s.engine.state ≠ .finishing ∧
  (s.arbiter.claims.engine = true ↔ s.engine.state = .waiting) ∧
  (s.arbiter.holder = .engine ↔ s.engine.state = .programming)

/-- The (n+1)-th port after `p` in the order A, B, C, A. -/
def cyclicNext (n : Fin 3) (p : Port) : Port :=
  match (portIndex p + 1 + n.val) % 3 with
  | 0 => .a
  | 1 => .b
  | _ => .c

/-! ### Claims (R16) -/

/-- A reader burst of port `p` holds the array. -/
def holdsFor (h : Holder) (p : Port) : Bool :=
  match h with
  | .reader q _ => q == p
  | .none => false
  | .engine => false
  | .audit => false

/-- The slot of a port is WORKING. -/
def slotWorking (q : PortState) : Bool := !slotFree q

/-- A port's slot is WORKING while its reader has a claim pending or holds the array, never both, and its
reply buffer holds a reply exactly in REPLY_READY (R16, R132, R154). -/
abbrev ReaderOk (s : State) (p : Port) : Prop :=
  slotWorking (s.port p) = (claimPending s.arbiter.claims (.reader p) || holdsFor s.arbiter.holder p) ∧
  (claimPending s.arbiter.claims (.reader p) && holdsFor s.arbiter.holder p) = false ∧
  (s.port p).reply.isSome = decide ((s.port p).slot = .replyReady)

/-- The audit's claim is pending or granted, never both, exactly while the audit runs (R16, R167). -/
abbrev AuditOk (s : State) : Prop :=
  s.audit.running = (s.arbiter.claims.audit || decide (s.arbiter.holder = .audit)) ∧
  (s.arbiter.claims.audit && decide (s.arbiter.holder = .audit)) = false ∧
  (s.audit.running = true → s.audit.requester.isSome = true)

/-- A grant decided and not carried out is of a free array, to a pending claim (R17). -/
abbrev DecidedOk (s : State) : Prop :=
  s.arbiter.decided.all (fun who => decide (s.arbiter.holder = .none) && claimPending s.arbiter.claims who) = true

/-- Every claimant has at most one claim pending or granted, and only with work for it (R16, R17). -/
abbrev ClaimsOk (s : State) : Prop := AuditOk s ∧ (∀ p ∈ allPorts, ReaderOk s p) ∧ DecidedOk s

/-! ### Quota (law L8) -/

/-- The jobs of port `p` that are queued or active, and its running audit (R26). -/
def outstandingWork (s : State) (p : Port) : Nat :=
  s.jobs.countP (fun j => j.port == p) +
    (if s.engine.job.any (fun j => j.port == p) then 1 else 0) +
    (if s.audit.running && s.audit.requester.any (fun r => r.1 == p) then 1 else 0)

/-- Each port's outstanding count is the number of its jobs and audits in flight, and its share is never
exceeded; the queue holds at most 8 jobs (R26, R28). -/
abbrev QuotaOk (s : State) : Prop :=
  (∀ p ∈ allPorts,
    (s.port p).outstanding = outstandingWork s p ∧ (s.port p).outstanding ≤ 3 ∧
    (s.port p).outstanding + (s.port p).results.length ≤ 4) ∧
  s.jobs.length ≤ 8

/-! ### The directory (law L3) -/

/-- An APPEND or DELETE in hand found its key's entry, or room for one (R68). -/
def directoryRoom (s : State) : Bool :=
  s.engine.job.all (fun j =>
    match recordFields j.kind with
    | some (key, _, _) => (dirFind s.directory key).isSome || decide (s.directory.length < 1024)
    | none => true)

/-- One entry for a key, in ascending key order, at most 1,024 (R66). -/
abbrev DirectoryOk (s : State) : Prop :=
  s.directory.Pairwise (fun x y => x.key < y.key) ∧ s.directory.length ≤ 1024 ∧
  s.mount.keyTable.length ≤ 1024 ∧ directoryRoom s = true

/-! ### Rings and subscriptions (law L11) -/

/-- At most 16 notices, the wrapped flag only at 16, at most 32 subscriptions and none twice (R142, R148). -/
abbrev RingsOk (s : State) : Prop :=
  ∀ p ∈ allPorts,
    (s.port p).ring.length ≤ 16 ∧ ((s.port p).wrapped = true → (s.port p).ring.length = 16) ∧
    (s.port p).subs.length ≤ 32 ∧ (s.port p).subs.Nodup

/-! ### The policy copy (law L7) -/

/-- From the OPTIONS phase on, every mark of the copy reads set in the array (R98). -/
abbrev PolicyOk (s : State) : Prop :=
  s.mount.phase ≠ .options →
    s.policy.length = 38 ∧ ∀ i ∈ List.range 38, copyWord s i &&& ~~~ readNormal s.array i = 0#32

/-! ### Attention lines (R151 to R153) -/

/-- While READY a LEVEL line follows the work waiting and a PULSE line the pulse. -/
abbrev LinesOk (s : State) : Prop :=
  s.device = .ready →
    ∀ p ∈ allPorts,
      (levelMode s p = true →
        (s.port p).lineLow = workWaiting (s.port p) ∧ (s.port p).pulseActive = false) ∧
      (levelMode s p = false → (s.port p).lineLow = (s.port p).pulseActive)

/-! ### MOUNTING (R15, R113, R177) -/

/-- A port with nothing waiting and its line released. -/
def portQuiet (q : PortState) : Bool :=
  q.ring.isEmpty && q.results.isEmpty && !q.lineLow && !q.pulseActive && q.outstanding == 0

/-- While MOUNTING nothing is queued, claimed, held or running, and no line is driven; the mount has not
begun while RST is low or the supply is gone. -/
abbrev MountOk (s : State) : Prop :=
  (s.device = .ready ↔ s.mount.phase = .ready) ∧
  (s.device = .mounting →
    s.engine = Engine.resting ∧ s.jobs = [] ∧ s.audit.running = false ∧ s.arbiter.holder = .none ∧
    s.arbiter.claims = ⟨false, false, false, false, false⟩ ∧
    ∀ p ∈ allPorts, portQuiet (s.port p) = true) ∧
  (s.rstLow = true → s.mount.phase = .options) ∧
  (s.powered = false → s.rstLow = true)

/-! ### PGM_EN (R3, R12) -/

/-- While PGM_EN is low, a pulse in progress has already been cut. -/
abbrev CutOk (s : State) : Prop := s.pgmEn = false → (runningSequence s).all (fun q => q.cut) = true

/-! ### Counters (law L5) -/

/-- A counter job in hand can still reach its target and no more (R84, R86). -/
def counterBound (s : State) : Bool :=
  match s.engine.work with
  | .counter w =>
      decide ((counterEntry s w.counter).value + w.remaining ≤ w.target) && decide (w.target ≤ 16777215)
  | .none => true
  | .record _ => true
  | .policy _ => true

/-! ### Addresses (R6, R8, R42) -/

/-- The span of a record with W payload words at `h` ends within the array. -/
def spanInArray (h w : Nat) : Bool := decide (h + 4 + w < 16384)

/-- The words of the work in hand exist. -/
def workInArray : Work → Bool
  | .none => true
  | .policy _ => true
  | .record w =>
      w.span.all (fun sp => spanInArray sp.location sp.w) && w.previous.all (fun q => spanInArray q.location q.w)
  | .counter w => w.opening.all (fun o => decide (o.1 < 512))

/-- The array words a hold or a running audit is about to read exist. -/
def readsInArray (s : State) : Bool :=
  (match s.arbiter.holder with
    | .reader _ e => spanInArray e.location e.w
    | .none => true
    | .engine => true
    | .audit => true) &&
  (!s.audit.running ||
    decide (s.audit.capturedAppend.getD 0 ≤ 16384) && decide (s.audit.capturedCursor.getD 0 ≤ 512) &&
      match s.audit.stage with
      | .records => decide (s.audit.position < s.audit.capturedAppend.getD 0)
      | .strips => decide (s.audit.position < s.audit.capturedCursor.getD 0))

/-- Every word index the part holds names a word of the array. -/
abbrev AddressesOk (s : State) : Prop :=
  s.log.appendPoint ≤ 16384 ∧ s.log.stripCursor ≤ 512 ∧
  (∀ e ∈ s.directory, spanInArray e.location e.w = true) ∧
  (∀ k ∈ s.mount.keyTable, spanInArray k.winner.location k.winner.header.w = true) ∧
  (∀ e ∈ s.repair.entries, e.word < 16384) ∧
  (∀ e ∈ s.counters, e.strip.all (fun n => decide (n < 512)) = true) ∧
  (∀ j ∈ s.jobs, kindInRange j.kind = true) ∧
  s.engine.job.all (fun j => kindInRange j.kind) = true ∧
  s.engine.seq.all (fun q => decide (q.word < 16384)) = true ∧
  workInArray s.engine.work = true ∧ readsInArray s = true

/-! ### All of it -/

/-- What holds of the reset state and of every state that follows it. -/
abbrev Inv (s : State) : Prop :=
  Memory.wf s.array = true ∧ EngineOk s ∧ ClaimsOk s ∧ QuotaOk s ∧ DirectoryOk s ∧ RingsOk s ∧ PolicyOk s ∧
  LinesOk s ∧ MountOk s ∧ CutOk s ∧ counterBound s = true ∧ AddressesOk s

end Sys2Proof.Machine
end

