-- ==== Sys2Proof/Certificates/Slice0/Obligations.lean ====
section
/-! DEFINITION. The statements for the provers. -/

section Statements

open Sys2Proof Sys2Proof.Machine

/-! ### The machine as a whole -/

/-- The step takes the command at the front of the queue and runs it with the queue's rest. -/
def Obligations.StepRunsFront : Prop :=
  ∀ (c : Instr) (rest : List Instr) (s : State),
    step { s with pending := c :: rest } = exec c { s with pending := rest }

/-- THE MODEL'S CHOICE (log entry 1): with no command waiting the block idles. -/
def Obligations.EmptyQueueIdles : Prop := ∀ s : State, s.pending = [] → step s = .next s

/-- The reset state meets the invariant.
The values the spec leaves open are the model's (log entries 3 to 5). -/
def Obligations.ResetMeetsInvariant : Prop := Inv State.reset

/-- Every step keeps the invariant. -/
def Obligations.InvariantKept : Prop := ∀ s t : State, Inv s → step s = .next t → Inv t

/-- Every command completes: no address the part holds leaves the array (R6). -/
def Obligations.EveryCommandCompletes : Prop :=
  ∀ (c : Instr) (s : State), Inv s → ∃ t, exec c s = .next t

/-- Every step keeps the array canonical, and no cell falls back: law L1. -/
def Obligations.CellsOnlyRise : Prop :=
  ∀ s t : State, Memory.wf s.array = true → step s = .next t →
    Memory.wf t.array = true ∧ CellsRise s.array t.array

/-- Every step keeps each port's share of jobs and results, and its outstanding count exact: law L8. -/
def Obligations.QuotaKept : Prop := ∀ s t : State, Inv s → step s = .next t → QuotaOk t

/-- Every step keeps one directory entry a key, in key order, at most 1,024: law L3. -/
def Obligations.DirectoryKept : Prop := ∀ s t : State, Inv s → step s = .next t → DirectoryOk t

/-- Every step keeps rings and subscription tables within bounds and the wrapped flag only at 16: law L11. -/
def Obligations.RingsKept : Prop := ∀ s t : State, RingsOk s → step s = .next t → RingsOk t

/-- No step of a part that stays READY takes a mark out of force, and every mark of the copy reads set in
the array, where the next mount finds it: law L7. -/
def Obligations.MarksOnlyAccumulate : Prop :=
  ∀ s t : State, Inv s → step s = .next t →
    PolicyOk t ∧
      (s.device = .ready → t.device = .ready →
        ∀ i ∈ List.range 38, copyWord s i &&& ~~~ copyWord t i = 0#32)

/-- Every step keeps LEVEL lines on the work waiting and PULSE lines on the pulse. -/
def Obligations.LinesFollowTheirMode : Prop := ∀ s t : State, Inv s → step s = .next t → LinesOk t

/-- While PGM_EN is low no step programs a cell, whatever the command; a fall of PGM_EN leaves no pulse
uncut. -/
def Obligations.WriteProtectHolds : Prop :=
  ∀ s t : State, CutOk s → step s = .next t →
    CutOk t ∧ (s.pgmEn = false → t.array = s.array)

/-- No step of a part that stays READY lowers a counter's value: law L5 between resets. -/
def Obligations.CountersNeverFall : Prop :=
  ∀ s t : State, Inv s → step s = .next t →
    counterBound t = true ∧
      (s.device = .ready → t.device = .ready →
        ∀ c : Nat, (counterEntry s c).value ≤ (counterEntry t c).value)

/-- At most one claimant holds the array; the engine's state, its claim, its hold and its work in hand agree,
and no claimant has a claim pending beside a grant: law L10.
That between events the engine is only IDLE, WAITING or PROGRAMMING is the model's reading (log entry 19), and
that a grant at a free array may be decided before it is carried out is too (log entry 23). -/
def Obligations.OneHolderKept : Prop :=
  ∀ s t : State, Inv s → step s = .next t → EngineOk t ∧ ClaimsOk t

/-! ### The array -/

/-- A pulse moves each pulsed cell to a state Table 1-2 allows and no other cell; and every outcome the table
allows is that of some effect. -/
def Obligations.PulseFollowsTable : Prop :=
  ∀ (c : Cells) (mask : Word), c.weak &&& c.sound = 0#32 →
    (∀ (e : PulseEffect) (i : Nat),
      (mask.getLsbD i = false →
        (pulseCells c mask e).weak.getLsbD i = c.weak.getLsbD i ∧
        (pulseCells c mask e).sound.getLsbD i = c.sound.getLsbD i) ∧
      (c.sound.getLsbD i = true →
        (pulseCells c mask e).sound.getLsbD i = true ∧ (pulseCells c mask e).weak.getLsbD i = false) ∧
      (c.weak.getLsbD i = true →
        (pulseCells c mask e).weak.getLsbD i ≠ (pulseCells c mask e).sound.getLsbD i) ∧
      ((pulseCells c mask e).weak &&& (pulseCells c mask e).sound = 0#32)) ∧
    (∀ d : Cells, d.weak &&& d.sound = 0#32 →
      (∀ i : Nat,
        (mask.getLsbD i = false →
          d.weak.getLsbD i = c.weak.getLsbD i ∧ d.sound.getLsbD i = c.sound.getLsbD i) ∧
        (c.sound.getLsbD i = true → d.sound.getLsbD i = true) ∧
        (c.weak.getLsbD i = true → (d.weak.getLsbD i || d.sound.getLsbD i) = true)) →
      ∃ e : PulseEffect, pulseCells c mask e = d)

/-- The coded words of the array: each is read back as written, and no valid word turns into another valid one
by cells that only set, nor is one by cells that did not set. -/
def Obligations.CodedWordsHold : Prop :=
  (∀ h : Header, h.inRange = true → decodeHeader (encodeHeader h) = some h) ∧
  (∀ n : Nat, n < 16777216 → decodeBase (encodeBase n) = some n) ∧
  (∀ c : Nat, c < 16 → decodeClaim (encodeClaim c) = some c) ∧
  (∀ v w : Word, v &&& ~~~ w = 0#32 →
    ((decodeHeader v).isSome = true → (decodeHeader w).isSome = true → v = w) ∧
    ((decodeBase v).isSome = true → (decodeBase w).isSome = true → v = w) ∧
    ((decodeClaim v).isSome = true → (decodeClaim w).isSome = true → v = w))

/-! ### Resets, power and pins -/

/-- DEVICE_RESET and POWER_LOSS: a pulse in progress is cut, every RAM state takes its reset value, every count
of the mount report 0, the pins stay. What the spec leaves open at reset, and the supply's loss, are the model's
(log entries 5 and 13). -/
def Obligations.ResetClearsRam : Prop :=
  ∀ (cut : PulseEffect) (s : State), Memory.wf s.array = true →
    s.engine.seq.all (fun q => decide (q.word < 16384)) = true →
    ∃ t : State, exec (.deviceReset cut) s = .next t ∧
      exec (.powerLoss cut) s = .next { t with powered := false } ∧
      PulsedTo s cut t.array ∧ t.powered = true ∧ t.rstLow = true ∧ t.pgmEn = s.pgmEn ∧
      t.portCAdr = s.portCAdr ∧ t.pending = s.pending ∧
      t.device = .mounting ∧ t.mount.phase = .options ∧ t.mount.keyTable = [] ∧ t.mount.greatest = none ∧
      t.mount.report = ⟨0, 0, 0, 0, 0, 0, 0, 0, 0, 0, 0, 0, 0, 0, 0, 0⟩ ∧
      t.policy = [] ∧ t.directory = [] ∧ t.counters = [] ∧ t.repair = ⟨[], 0, 0⟩ ∧
      t.engine = ⟨.idle, none, none, .none, none⟩ ∧ t.jobs = [] ∧
      t.arbiter = ⟨.none, ⟨false, false, false, false, false⟩, .none, .c, none⟩ ∧
      t.audit.running = false ∧ t.audit.requester = none ∧ t.audit.findings = [] ∧ t.audit.overflow = 0 ∧
      t.audit.added = 0 ∧ t.audit.dropped = 0 ∧ t.audit.orphan = false ∧ t.audit.touchUp = false ∧
      t.audit.capturedAppend = none ∧ t.audit.capturedCursor = none ∧ t.lastSelector = .portStatus ∧
      ∀ p : Port, t.port p =
        { slot := .empty, reply := none, results := [], outstanding := 0, ring := [], wrapped := false,
          subs := [], mask := 0x3F#6, pulseActive := false, lineLow := false, discard := false,
          truncated := false, output := [] }

/-- RST_RELEASE lets the mount begin and samples Port C's address; MOUNT_OPTIONS builds the policy copy from
words 0 to 37 at normal level and changes nothing else but the phase.
That RST_RELEASE also ends the unpowered time is the model's (log entry 13). -/
def Obligations.MountBegins : Prop :=
  (∀ (adr : BitVec 2) (s : State), s.rstLow = true →
    exec (.rstRelease adr) s = .next { s with powered := true, rstLow := false, portCAdr := adr }) ∧
  (∀ s : State, s.device = .mounting → s.powered = true → s.rstLow = false → s.mount.phase = .options →
    exec .mountOptions s = .next
      { s with
        policy := (List.range 38).map (fun i => readNormal s.array i)
        mount := { s.mount with phase := .strips } })

/-- MOUNT_STRIPS: the cursor stands after the last strip that is not FREE, each counter's entry is its CLAIMED
strip with the greatest base, the later of two that tie, weak claims of current strips are offered for touch-up,
or withheld under auto-repair-off, and the report's strip counts are set; and the classes of Table 5-2. -/
def Obligations.MountStripsBuildsCounters : Prop :=
  (∀ s : State, s.device = .mounting → s.powered = true → s.rstLow = false → s.mount.phase = .strips →
    ∃ t : State, exec .mountStrips s = .next t ∧
      t.device = .mounting ∧ t.mount.phase = .records ∧ t.array = s.array ∧ t.policy = s.policy ∧
      (∀ n < 512, t.log.stripCursor ≤ n → stripBlank s.array n = true) ∧
      (∀ n : Nat, t.log.stripCursor = n + 1 → n < 512 ∧ stripBlank s.array n = false) ∧
      t.counters.map (fun e => e.id) = List.range 16 ∧
      (∀ c < 16,
        ((counterEntry t c).strip = none →
          counterEntry t c = ⟨c, none, 0, 0, none, 0⟩ ∧
          ∀ n < 512, ∀ b : Nat, classifyStrip s.array n ≠ .claimed c b) ∧
        (∀ n : Nat, (counterEntry t c).strip = some n →
          n < 512 ∧ classifyStrip s.array n = .claimed c (counterEntry t c).base ∧
          (∀ m < 512, ∀ b : Nat, classifyStrip s.array m = .claimed c b →
            b < (counterEntry t c).base ∨ (b = (counterEntry t c).base ∧ m ≤ n)) ∧
          (counterEntry t c).ones = stripOnes s.array n ∧
          (∀ p < 192, positionSet s.array n p = true →
            ∃ h, (counterEntry t c).highest = some h ∧ p ≤ h) ∧
          (∀ h, (counterEntry t c).highest = some h → h < 192 ∧ positionSet s.array n h = true) ∧
          ((counterEntry t c).base + stripOnes s.array n ≤ 16777215 →
            (counterEntry t c).value = (counterEntry t c).base + stripOnes s.array n))) ∧
      ∃ (offers : List RepairEntry) (withheld : Nat),
        offers =
          ((List.range 512).filter (fun n =>
            t.counters.any (fun e => e.strip == some n) &&
              readNormal s.array (39 + 8 * n) != readMargin s.array (39 + 8 * n))).map
            (fun n => ⟨.touchUp, 39 + 8 * n⟩) ∧
        ((copyWord s 1).getLsbD 4 = true →
          t.repair = s.repair ∧ withheld = s.mount.report.withheld + offers.length) ∧
        ((copyWord s 1).getLsbD 4 = false → s.repair.entries = [] →
          t.repair = ⟨offers, s.repair.done, s.repair.failed⟩ ∧ withheld = s.mount.report.withheld) ∧
        (s.repair.entries = [] →
          t.mount.report =
            { s.mount.report with
              claimedStrips := (List.range 512).countP (fun n =>
                match classifyStrip s.array n with
                | .claimed _ _ => true
                | .free => false
                | .dead => false)
              deadStrips := (List.range 512).countP (fun n => classifyStrip s.array n == .dead)
              withheld := withheld })) ∧
  (∀ (m : Memory) (n : Nat),
    (stripBlank m n = true ↔ ∀ k < 8, readNormal m (38 + 8 * n + k) = 0#32) ∧
    classifyStrip m n =
      (if ∀ k < 8, readNormal m (38 + 8 * n + k) = 0#32 then .free
      else match decodeBase (readNormal m (38 + 8 * n)), decodeClaim (readNormal m (39 + 8 * n)) with
        | some base, some counter => .claimed counter base
        | some _, none => .dead
        | none, _ => .dead) ∧
    (∀ p < 192, positionSet m n p = (readNormal m (40 + 8 * n + p / 32)).getLsbD (p % 32)) ∧
    stripOnes m n = (List.range 192).countP (positionSet m n))

/-- MOUNT_RECORDS: the walk takes its units one after the other from word 4134, one word for a TORN_HEADER and
5 + W for a record, up to a BLANK header or 16384; each record's sequence as read is the greater of its sequence
word and one more than the one before it, or 1. Of each key's CANDIDATE and DAMAGED records the one with the
greatest sequence wins and the others are stale; 1,024 keys are admitted, sound commits first; stale records are
offered for RETIRE and weak winners for TOUCH_UP, or withheld under auto-repair-off; the log allocator, the key
table and the report follow. And the classes of Table 3-3.
That the next sequence number follows R119's first sentence where its third would ask for more is the model's reading
(log entry 29). -/
def Obligations.MountRecordsChoosesWinners : Prop :=
  (∀ s : State, s.device = .mounting → s.powered = true → s.rstLow = false → s.mount.phase = .records →
    ∃ (starts : List Nat) (stop : Nat) (found competing won admitted stale : List FoundRecord)
        (offers : List RepairEntry) (nextSeq : Nat) (repair : RepairList) (report : MountReport),
      exec .mountRecords s = .next
        { s with
          log := ⟨stop, nextSeq, s.log.stripCursor⟩
          repair := repair
          mount := ⟨.sort, stop,
            admitted.map (fun x => ⟨x.header.key, x, stale.filter (fun r => r.header.key == x.header.key)⟩),
            found.getLast?.map (fun r => r.seq), report⟩ } ∧
      (starts ++ [stop]).head? = some 4134 ∧
      (∀ i h : Nat, starts[i]? = some h →
        h < 16384 ∧ readNormal s.array h ≠ 0#32 ∧
        (starts ++ [stop])[i + 1]? = some
          (match spanHeader s.array h with
            | none => h + 1
            | some hdr => h + 5 + hdr.w)) ∧
      (stop = 16384 ∨ stop < 16384 ∧ readNormal s.array stop = 0#32) ∧
      found.map (fun r => r.location) = starts.filter (fun h => (spanHeader s.array h).isSome) ∧
      (∀ r ∈ found,
        spanHeader s.array r.location = some r.header ∧ r.cls = classifyRecord s.array r.location ∧
        r.sound = decide (readMargin s.array (r.location + 3 + r.header.w) = BitVec.allOnes 32)) ∧
      (∀ r : FoundRecord, found.head? = some r →
        r.seq = max (readNormal s.array (r.location + 1)).toNat 1) ∧
      (∀ (i : Nat) (x y : FoundRecord), found[i]? = some x → found[i + 1]? = some y →
        y.seq = max (readNormal s.array (y.location + 1)).toNat (x.seq + 1)) ∧
      competing = found.filter (fun r => decide (r.cls = .candidate ∨ r.cls = .damaged)) ∧
      won = competing.filter (fun r => competing.all (fun x => x.header.key != r.header.key || decide (x.seq ≤ r.seq))) ∧
      admitted =
        (if won.length ≤ 1024 then won
        else (won.filter (fun r => r.sound) ++ won.filter (fun r => !r.sound)).take 1024) ∧
      stale = competing.filter (fun r => admitted.any (fun x => x.header.key == r.header.key && x != r)) ∧
      offers = found.filterMap (fun r =>
        if r ∈ stale then some ⟨.retire, r.location + 4 + r.header.w⟩
        else if r ∈ admitted ∧ r.sound = false then some ⟨.touchUp, r.location + 3 + r.header.w⟩
        else none) ∧
      (found = [] → nextSeq = 1) ∧
      (∀ r : FoundRecord, found.getLast? = some r → r.seq < 4294967295 → nextSeq = r.seq + 1) ∧
      report =
        { s.mount.report with
          notAdmitted := won.length - admitted.length
          torn := found.countP (fun r => r.cls == .torn)
          tornHeader := starts.countP (fun h => (spanHeader s.array h).isNone)
          damaged := found.countP (fun r => r.cls == .damaged)
          stale := stale.length
          retired := found.countP (fun r => r.cls == .retired)
          appendPoint := stop
          freeWords := 16384 - stop
          nextSeq := nextSeq
          dropped := report.dropped
          withheld := report.withheld } ∧
      ((copyWord s 1).getLsbD 4 = true →
        repair = s.repair ∧ report.dropped = s.mount.report.dropped ∧
        report.withheld = s.mount.report.withheld + offers.length) ∧
      ((copyWord s 1).getLsbD 4 = false →
        report.withheld = s.mount.report.withheld ∧
        (s.repair.entries.length ≤ 32 → (∀ e ∈ s.repair.entries, e.word < 4134) →
          repair = ⟨(s.repair.entries ++ offers).take 32, s.repair.done, s.repair.failed⟩ ∧
          report.dropped =
            s.mount.report.dropped + (s.repair.entries.length + offers.length - 32)))) ∧
  (∀ (m : Memory) (h : Nat),
    spanHeader m h = (decodeHeader (readNormal m h)).filter (fun hdr => decide (h + 4 + hdr.w ≤ 16383)) ∧
    (readNormal m h = 0#32 → classifyRecord m h = .blank) ∧
    (readNormal m h ≠ 0#32 → spanHeader m h = none → classifyRecord m h = .tornHeader) ∧
    (∀ hdr : Header, readNormal m h ≠ 0#32 → spanHeader m h = some hdr →
      classifyRecord m h =
        if readNormal m (h + 3 + hdr.w) ≠ BitVec.allOnes 32 then .torn
        else if readNormal m (h + 4 + hdr.w) ≠ 0#32 then .retired
        else if crc32 (((List.range (2 + hdr.w)).map (fun i => readNormal m (h + i))).flatMap
            (fun v => leBytes v.toNat 4)) ≠ readNormal m (h + 2 + hdr.w) then .damaged
        else .candidate))

/-- MOUNT_SORT: the directory is in key order and holds, for each admitted key, the entry of Table 4-5, W and pad
the winner's header's (log entry 26); the report's LIVE, DELETED and LOST counts are set; the part is READY and
MOUNT_DONE is in every ring. -/
def Obligations.MountSortBuildsDirectory : Prop :=
  ∀ s : State, s.device = .mounting → s.powered = true → s.rstLow = false → s.mount.phase = .sort →
    s.mount.keyTable.Pairwise (fun x y => x.key ≠ y.key) →
    ∃ t : State, exec .mountSort s = .next t ∧
      t.device = .ready ∧ t.mount.phase = .ready ∧ t.array = s.array ∧ t.repair = s.repair ∧ t.log = s.log ∧
      t.directory.Pairwise (fun x y => x.key < y.key) ∧
      t.directory.length = s.mount.keyTable.length ∧
      (∀ k ∈ s.mount.keyTable, k.winner.seq ≤ 4294967295 →
        dirFind t.directory k.key = some
          ⟨k.key,
            if k.winner.cls = .damaged then .lost
            else if k.winner.header.kind = .data then .live else .deleted,
            k.winner.location, k.winner.header.w, k.winner.header.pad, k.winner.seq, k.winner.header.writer⟩) ∧
      (∀ key : Nat, (∀ k ∈ s.mount.keyTable, k.key ≠ key) → dirFind t.directory key = none) ∧
      t.mount.report =
        { s.mount.report with
          live := t.directory.countP (fun e => e.state == .live)
          deleted := t.directory.countP (fun e => e.state == .deleted)
          lost := t.directory.countP (fun e => e.state == .lost) } ∧
      (∀ p : Port, (s.port p).ring.length < 16 →
        (t.port p).ring = (s.port p).ring ++ [⟨.mountDone, 0, 0#32, none⟩] ∧
        ((copyWord s 1).getLsbD (portIndex p) = true → (t.port p).lineLow = workWaiting (t.port p)) ∧
        ((copyWord s 1).getLsbD (portIndex p) = false → (s.port p).mask.getLsbD 4 = true →
          (t.port p).lineLow = true ∧ (t.port p).pulseActive = true))

/-- PGM_EN_RISE, PGM_EN_FALL and ALERT_PULSE_END.
The mark `cut` is the model's own (log entry 16). -/
def Obligations.PinEvents : Prop :=
  (∀ s : State, exec .pgmEnRise s = .next { s with pgmEn := true }) ∧
  (∀ (cut : PulseEffect) (s : State), Memory.wf s.array = true →
    s.engine.seq.all (fun q => decide (q.word < 16384)) = true →
    ∃ t : State, exec (.pgmEnFall cut) s = .next t ∧ PulsedTo s cut t.array ∧
      t = { s with
        pgmEn := false
        array := t.array
        engine := { s.engine with
          seq := if s.engine.state = .programming then s.engine.seq.map (fun q => { q with cut := true })
            else s.engine.seq } }) ∧
  (∀ (p : Port) (s : State), (s.port p).pulseActive = true →
    exec (.alertPulseEnd p) s = .next (s.setPort p { s.port p with pulseActive := false, lineLow := false }))

/-! ### Frames -/

/-- The rows of frames and the bytes they carry agree: a well-formed frame row is the row of its bytes. -/
def Obligations.FrameRowsRoundTrip : Prop :=
  ∀ (i : Instr) (bus : Bus) (bytes : List Byte), i.wellFormed = true → rowFrame i = some (bus, bytes) →
    frameRow bus bytes = i

/-- What a frame does depends on its bus and bytes alone, not on the row that names it. That FRAME_DISCARD at a
free slot, or with incomplete bytes, acts as its bytes say is the model's choice (log entry 22). -/
def Obligations.FrameMeaningIsItsBytes : Prop :=
  ∀ (bus : Bus) (bytes : List Byte) (s : State),
    exec (frameRow bus bytes) s = exec (.frameDiscard bus bytes) s

/-- INCOMPLETE_FRAME sets the truncated flag in every slot state, and FRAME_DISCARD, a complete frame at a
WORKING slot, the discard flag; nothing else changes but what the transaction itself does: the SPI output shifts
out FF, Port C's last selector is SEND-FRAME.
That the last selector changes with a frame not taken is the model's reading (log entry 10). -/
def Obligations.FramesNotTaken : Prop :=
  ∀ (bus : Bus) (p : Port) (bytes : List Byte) (s : State), reachedPort s bus = some p →
    ((bytes.length < 3 ∨ (byteAt bytes 2 ≤ 250 ∧ bytes.length < 4 + byteAt bytes 2)) →
      exec (.incompleteFrame bus bytes) s =
        .next (noteSendFrame p (s.setPort p { s.port p with truncated := true }))) ∧
    (¬ (bytes.length < 3 ∨ (byteAt bytes 2 ≤ 250 ∧ bytes.length < 4 + byteAt bytes 2)) →
      slotFree (s.port p) = false →
      exec (.frameDiscard bus bytes) s =
        .next (noteSendFrame p (s.setPort p { s.port p with discard := true })))

/-- A taken frame with a form fault, its command code known or not, is answered FRAME_ERROR; UNKNOWN_COMMAND, of
good form, MOUNTING or BAD_REQUEST by the device state.
That form is judged before MOUNTING is the model's reading (log entry 9). -/
def Obligations.TakenFrameRefused : Prop :=
  ∀ (bus : Bus) (p : Port) (s : State), Takes s bus p →
    (∀ (cmd : Command) (f : Frame),
      (250 < f.len.toNat ∨ f.len.toNat + 1 < f.rest.length ∨
        (f.len.toNat + 1 = f.rest.length ∧
          f.rest.getD f.len.toNat 0#8 ≠
            crc8 (commandCode cmd :: f.tag :: f.len :: f.rest.take f.len.toNat))) →
      exec (commandRow bus f cmd) s = .next (s.answered p (commandCode cmd) f.tag .frameError [])) ∧
    (∀ (code : Byte) (f : Frame), (∀ cmd : Command, commandCode cmd ≠ code) →
      (250 < f.len.toNat ∨ f.len.toNat + 1 < f.rest.length ∨
        (f.len.toNat + 1 = f.rest.length ∧
          f.rest.getD f.len.toNat 0#8 ≠ crc8 (code :: f.tag :: f.len :: f.rest.take f.len.toNat))) →
      exec (.unknownCommand bus code f) s = .next (s.answered p code f.tag .frameError [])) ∧
    (∀ (code tag : Byte) (params : List Byte), (∀ cmd : Command, commandCode cmd ≠ code) →
      params.length ≤ 250 →
      exec (.unknownCommand bus code
          ⟨tag, BitVec.ofNat 8 params.length,
            params ++ [crc8 (code :: tag :: BitVec.ofNat 8 params.length :: params)]⟩) s =
        .next (s.answered p code tag (if s.device = .mounting then .mounting else .badRequest) []))

/-- While MOUNTING, every command but STATUS is answered MOUNTING and has no other effect. -/
def Obligations.MountingRefusesCommands : Prop :=
  ∀ (bus : Bus) (p : Port) (s : State) (cmd : Command) (tag : Byte) (params : List Byte),
    Takes s bus p → s.device = .mounting → cmd ≠ .status → params.length ≤ 250 →
    exec (commandRow bus (goodFrame cmd tag params) cmd) s =
      .next (s.answered p (commandCode cmd) tag .mounting [])

/-- Parameters of another length than Table 12-6 gives, or outside the ranges of R174, are answered
BAD_REQUEST and have no other effect: all twenty commands. -/
def Obligations.BadParametersRefused : Prop :=
  ∀ (bus : Bus) (p : Port) (s : State) (cmd : Command) (tag : Byte) (params : List Byte),
    Takes s bus p → (s.device = .ready ∨ cmd = .status) → params.length ≤ 250 →
    paramsFit cmd params = false →
    exec (commandRow bus (goodFrame cmd tag params) cmd) s =
      .next (s.answered p (commandCode cmd) tag .badRequest [])

/-- READ of a key in range: the slot is WORKING with no reply and the reader's claim is entered; a grant already
due at a free array is decided without it (log entry 23). -/
def Obligations.ReadEntersClaim : Prop :=
  ∀ (bus : Bus) (p : Port) (s : State) (tag : Byte) (key : Nat),
    Takes s bus p → s.device = .ready → 1 ≤ key → key ≤ 4094 →
    exec (.read bus (goodFrame .read tag (leBytes key 2))) s = .next
      { noteSendFrame p (s.setPort p { s.port p with slot := .working ⟨tag, key⟩, reply := none }) with
        arbiter :=
          { s.arbiter with
            claims := markClaim s.arbiter.claims (.reader p) true
            decided :=
              if s.arbiter.holder = .none ∧ s.arbiter.decided = none then chooseClaimant s.arbiter
              else s.arbiter.decided } }

/-- INFO answers DENIED by the port's deny-read mark, NOT_FOUND, or every field of the entry. -/
def Obligations.InfoAnswers : Prop :=
  ∀ (bus : Bus) (p : Port) (s : State) (tag : Byte) (key : Nat),
    Takes s bus p → s.device = .ready → 1 ≤ key → key ≤ 4094 →
    ((copyWord s (2 + key / 256)).getLsbD (portIndex p) = true →
      exec (.info bus (goodFrame .info tag (leBytes key 2))) s =
        .next (s.answered p 0x02#8 tag .denied [])) ∧
    ((copyWord s (2 + key / 256)).getLsbD (portIndex p) = false → dirFind s.directory key = none →
      exec (.info bus (goodFrame .info tag (leBytes key 2))) s =
        .next (s.answered p 0x02#8 tag .notFound [])) ∧
    (∀ e : DirEntry, (copyWord s (2 + key / 256)).getLsbD (portIndex p) = false →
      dirFind s.directory key = some e →
      exec (.info bus (goodFrame .info tag (leBytes key 2))) s =
        .next (s.answered p 0x02#8 tag .ok
          (leBytes e.key 2 ++ [entryStateByte e.state] ++ leBytes e.location 2 ++
            [BitVec.ofNat 8 e.w, BitVec.ofNat 8 e.pad] ++ leBytes e.seq 4 ++ [portByte e.writer])))

/-- LIST answers the first 16 entries at or above the start key that the port may read, and whether more
follow. -/
def Obligations.ListAnswers : Prop :=
  ∀ (bus : Bus) (p : Port) (s : State) (tag : Byte) (start : Nat) (readable : List DirEntry),
    Takes s bus p → s.device = .ready → 1 ≤ start → start ≤ 4094 →
    readable = s.directory.filter (fun e =>
      decide (start ≤ e.key) && !(copyWord s (2 + e.key / 256)).getLsbD (portIndex p)) →
    exec (.list bus (goodFrame .list tag (leBytes start 2))) s =
      .next (s.answered p 0x03#8 tag .ok
        ([BitVec.ofNat 8 (min 16 readable.length), if 16 < readable.length then 0x01#8 else 0x00#8] ++
          (readable.take 16).flatMap (fun e =>
            leBytes e.key 2 ++ [entryStateByte e.state] ++ leBytes e.seq 4 ++
              [portByte e.writer, BitVec.ofNat 8 (4 * e.w - e.pad)])))

/-- What a port may not read does not show: with the entries its deny-read marks cover taken out of the
directory, every INFO and every LIST frame leaves the same port state. -/
def Obligations.DeniedEntriesDoNotShow : Prop :=
  ∀ (bus : Bus) (p : Port) (s : State) (f : Frame),
    reachedPort s bus = some p →
    ∀ s' : State, s' = { s with directory := s.directory.filter (fun e => !keyDenied s p e.key) } →
    (∀ t t' : State, exec (.info bus f) s = .next t → exec (.info bus f) s' = .next t' →
      t.port p = t'.port p) ∧
    (∀ t t' : State, exec (.list bus f) s = .next t → exec (.list bus f) s' = .next t' →
      t.port p = t'.port p)

/-- COUNT-READ, POLICY-READ and IDENTIFY. -/
def Obligations.CounterAndPolicyQueries : Prop :=
  ∀ (bus : Bus) (p : Port) (s : State) (tag : Byte), Takes s bus p → s.device = .ready →
    (∀ c ≤ 15,
      exec (.countRead bus (goodFrame .countRead tag [BitVec.ofNat 8 c])) s =
        .next (if (copyWord s (18 + c)).getLsbD (portIndex p) = true then s.answered p 0x04#8 tag .denied []
          else s.answered p 0x04#8 tag .ok
            ([BitVec.ofNat 8 (counterEntry s c).id] ++ leBytes (counterEntry s c).value 3 ++
              [BitVec.ofNat 8
                (if (counterEntry s c).strip = none then 0
                  else match (counterEntry s c).highest with
                    | none => 192
                    | some h => 191 - h)]))) ∧
    (∀ n ≤ 31,
      exec (.policyRead bus (goodFrame .policyRead tag [BitVec.ofNat 8 n])) s =
        .next (s.answered p 0x05#8 tag .ok
          [BitVec.ofNat 8 n, BitVec.ofNat 8 ((copyWord s (2 + n)).toNat % 128),
            BitVec.ofNat 8 ((copyWord s 1).toNat % 32),
            if copyWord s 0 = 0#32 then 0x00#8 else 0x01#8])) ∧
    exec (.identify bus (goodFrame .identify tag [])) s =
      .next (s.answered p 0x07#8 tag .ok
        (leBytes (copyWord s 34).toNat 4 ++ leBytes (copyWord s 35).toNat 4 ++
          leBytes (copyWord s 36).toNat 4 ++ leBytes (copyWord s 37).toNat 4 ++
          [if copyWord s 0 = 0#32 then 0x00#8 else 0x01#8]))

/-- STATUS in both device states, and AUDIT-REPORT. -/
def Obligations.StatusAndReportAnswer : Prop :=
  ∀ (bus : Bus) (p : Port) (s : State) (tag : Byte), Takes s bus p →
    (s.device = .mounting →
      exec (.status bus (goodFrame .status tag [])) s =
        .next (s.answered p 0x06#8 tag .ok [0x00#8, phaseByte s.mount.phase])) ∧
    (s.device = .ready →
      exec (.status bus (goodFrame .status tag [])) s =
        .next (s.answered p 0x06#8 tag .ok
          ([0x01#8, phaseByte s.mount.phase] ++ leBytes s.log.appendPoint 2 ++
            leBytes (16384 - s.log.appendPoint) 2 ++ leBytes s.log.nextSeq 4 ++
            leBytes s.log.stripCursor 2 ++ leBytes s.directory.length 2 ++
            [BitVec.ofNat 8 s.jobs.length, engineStateByte s.engine.state, flagByte s.pgmEn,
              BitVec.ofNat 8 s.repair.entries.length] ++
            leBytes s.repair.done 2 ++ leBytes s.repair.failed 2 ++ [flagByte s.audit.running] ++
            (let r := s.mount.report;
              leBytes r.live 2 ++ leBytes r.deleted 2 ++ leBytes r.lost 2 ++ leBytes r.notAdmitted 2 ++
                leBytes r.torn 2 ++ leBytes r.tornHeader 2 ++ leBytes r.damaged 2 ++ leBytes r.stale 2 ++
                leBytes r.retired 2 ++ leBytes r.claimedStrips 2 ++ leBytes r.deadStrips 2 ++
                leBytes r.appendPoint 2 ++ leBytes r.freeWords 2 ++ leBytes r.nextSeq 4 ++
                leBytes r.dropped 2 ++ leBytes r.withheld 2)))) ∧
    (s.device = .ready →
      exec (.auditReport bus (goodFrame .auditReport tag [])) s =
        .next (s.answered p 0x08#8 tag .ok
          ([flagByte s.audit.running, BitVec.ofNat 8 s.audit.findings.length] ++ leBytes s.audit.overflow 2 ++
            s.audit.findings.flatMap (fun x => leBytes x.word 2 ++ [regionByte x.region] ++ leBytes x.id 2))))

/-- SUBSCRIBE and UNSUBSCRIBE of a kind and id in range. -/
def Obligations.SubscriptionsChange : Prop :=
  ∀ (bus : Bus) (p : Port) (s : State) (tag : Byte) (x : Subscription),
    Takes s bus p → s.device = .ready → subscriptionInRange x = true →
    exec (.subscribe bus (goodFrame .subscribe tag (subscriptionParams x))) s =
      .next
        (if (copyWord s (match x.kind with | .key => 2 + x.id / 256 | .counter => 18 + x.id)).getLsbD
            (portIndex p) = true then s.answered p 0x09#8 tag .denied []
        else if x ∈ (s.port p).subs then s.answered p 0x09#8 tag .ok []
        else if 32 ≤ (s.port p).subs.length then s.answered p 0x09#8 tag .tableFull []
        else (s.setPort p { s.port p with subs := (s.port p).subs ++ [x] }).answered p 0x09#8 tag .ok []) ∧
    exec (.unsubscribe bus (goodFrame .unsubscribe tag (subscriptionParams x))) s =
      .next
        (if x ∈ (s.port p).subs then
          (s.setPort p { s.port p with subs := (s.port p).subs.filter (fun y => y ≠ x) }).answered p 0x0A#8 tag
            .ok []
        else s.answered p 0x0A#8 tag .notFound [])

/-- SET-ALERT-MASK replaces the mask; a LEVEL line is judged at once against the new mask, a PULSE line and
its pulse stay. Work waits at a port while a notice of an enabled kind or, with RESULT enabled, a result waits. -/
def Obligations.AlertMaskReplaced : Prop :=
  (∀ (bus : Bus) (p : Port) (s : State) (tag : Byte) (m : BitVec 6),
    Takes s bus p → s.device = .ready →
    exec (.setAlertMask bus (goodFrame .setAlertMask tag [m.setWidth 8])) s =
      .next ((s.setPort p
        { s.port p with
          mask := m
          lineLow :=
            if (copyWord s 1).getLsbD (portIndex p) = true then workWaiting { s.port p with mask := m }
            else (s.port p).lineLow }).answered p 0x0B#8 tag .ok [])) ∧
  (∀ q : PortState,
    workWaiting q = true ↔
      (∃ n ∈ q.ring,
        q.mask.getLsbD
          (match n.kind with
            | .keyWritten => 0
            | .keyDeleted => 1
            | .counterMoved => 2
            | .policyChanged => 3
            | .mountDone => 4) = true) ∨
      (q.results ≠ [] ∧ q.mask.getLsbD 5 = true))

/-- PORT-RESET empties the port, keeps its outstanding count, and orphans its jobs and its running audit. -/
def Obligations.PortResetEmptiesPort : Prop :=
  ∀ (bus : Bus) (p : Port) (s : State) (tag : Byte), Takes s bus p → s.device = .ready →
    exec (.portReset bus (goodFrame .portReset tag [])) s =
      .next
        (({ s with
            jobs := s.jobs.map (fun (j : Job) => if j.port = p then { j with orphan := true } else j)
            engine := { s.engine with
              job := s.engine.job.map (fun (j : Job) => if j.port = p then { j with orphan := true } else j) }
            audit := if s.audit.running = true ∧ s.audit.requester.map (fun (r : Port × Byte) => r.1) = some p then
                { s.audit with orphan := true } else s.audit }.setPort p
          { s.port p with
            results := [], ring := [], wrapped := false, subs := [], mask := 0x3F#6, pulseActive := false,
            lineLow := false, discard := false, truncated := false }).answered p 0x0C#8 tag .ok [])

/-! ### Jobs at a port -/

/-- APPEND, DELETE, COUNT-ADVANCE, COUNT-RAISE, RESTRICT, SET-OPTION and CLOSE with every acceptance check
passed: the job record joins the queue's tail, the outstanding count rises, the reply is ACCEPTED. -/
def Obligations.JobAccepted : Prop :=
  ∀ (bus : Bus) (p : Port) (s : State) (tag : Byte) (k : JobKind),
    Takes s bus p → s.device = .ready → kindInRange k = true →
    accessRefusal s p k = none → lifeCycleRefusal s p k = none →
    (s.port p).outstanding < 3 → (s.port p).outstanding + (s.port p).results.length < 4 →
    s.jobs.length < 8 →
    exec (jobRow bus tag k) s = .next
      { (s.setPort p { s.port p with outstanding := (s.port p).outstanding + 1 }).answered p
          (commandCode (jobCommand k)) tag .accepted [] with
        jobs := s.jobs ++ [⟨k, p, tag, false⟩] }

/-- A job frame refused: the first check of Table 2-4 that fails gives the code, and nothing else changes. -/
def Obligations.JobRefused : Prop :=
  ∀ (bus : Bus) (p : Port) (s : State) (tag : Byte) (k : JobKind) (code : Code),
    Takes s bus p → s.device = .ready → kindInRange k = true →
    (accessRefusal s p k = some code ∨
      (accessRefusal s p k = none ∧
        (lifeCycleRefusal s p k = some code ∨
          (lifeCycleRefusal s p k = none ∧
            if 3 ≤ (s.port p).outstanding ∨ 4 ≤ (s.port p).outstanding + (s.port p).results.length then
              code = .quota
            else 8 ≤ s.jobs.length ∧ code = .queueFull)))) →
    exec (jobRow bus tag k) s = .next (s.answered p (commandCode (jobCommand k)) tag code [])

/-- Checks 3 and 4: port-C-read-only, then the port's own deny mark, then frozen, of the word the kind
writes under. -/
def Obligations.AccessJudgedByMarks : Prop :=
  ∀ (s : State) (p : Port) (k : JobKind) (w : Option Nat),
    w = (match k with
      | .append key _ _ => some (2 + key / 256)
      | .delete key _ => some (2 + key / 256)
      | .countAdvance c _ => some (18 + c)
      | .countRaise c _ => some (18 + c)
      | .restrict _ _ => none
      | .setOption _ => none
      | .close => none) →
    accessRefusal s p k =
      if p = .c ∧ (copyWord s 1).getLsbD 3 = true then some .denied
      else match w with
        | none => none
        | some i =>
            if (copyWord s i).getLsbD (3 + portIndex p) = true then some .denied
            else if (copyWord s i).getLsbD 6 = true then some .frozen else none

/-- Check 5, the life-cycle, with the marks that Table 6-3 lets a port add to a CLOSED part. -/
def Obligations.LifeCycleJudged : Prop :=
  ∀ (s : State) (p : Port) (k : JobKind),
    (copyWord s 0 = 0#32 → lifeCycleRefusal s p k = none) ∧
    (copyWord s 0 ≠ 0#32 →
      match k with
      | .append _ _ _ => lifeCycleRefusal s p k = none
      | .delete _ _ => lifeCycleRefusal s p k = none
      | .countAdvance _ _ => lifeCycleRefusal s p k = none
      | .countRaise _ _ => lifeCycleRefusal s p k = none
      | .setOption _ => lifeCycleRefusal s p k = some .locked
      | .close => lifeCycleRefusal s p k = some .locked
      | .restrict target marks =>
          marks.getLsbD 7 = false →
          lifeCycleRefusal s p k =
            if ∀ i : Fin 7, marks.getLsbD i = true →
                (copyWord s (targetIndex target)).getLsbD i = true ∨ i.val = portIndex p ∨
                i.val = 3 + portIndex p ∨
                (i.val = 6 ∧ (copyWord s (targetIndex target)).getLsbD (3 + portIndex p) = false)
            then none else some .locked)

/-- AUDIT: AUDIT_BUSY, QUOTA, or the captures of R166 and the first claim; an empty log and pool complete at
once with no finding. -/
def Obligations.AuditRequested : Prop :=
  ∀ (bus : Bus) (p : Port) (s : State) (tag : Byte) (touchUp : Bool) (row : Instr),
    row = .audit bus (goodFrame .audit tag [if touchUp then 0x01#8 else 0x00#8]) →
    Takes s bus p → s.device = .ready →
    (s.audit.running = true → exec row s = .next (s.answered p 0x30#8 tag .auditBusy [])) ∧
    (s.audit.running = false →
      (3 ≤ (s.port p).outstanding ∨ 4 ≤ (s.port p).outstanding + (s.port p).results.length) →
      exec row s = .next (s.answered p 0x30#8 tag .quota [])) ∧
    (s.audit.running = false → (s.port p).outstanding < 3 →
      (s.port p).outstanding + (s.port p).results.length < 4 →
      (4134 < s.log.appendPoint →
        exec row s = .next
          { (s.setPort p { s.port p with outstanding := (s.port p).outstanding + 1 }).answered p 0x30#8 tag
              .accepted [] with
            audit := ⟨true, some (p, tag), touchUp, false, some s.log.appendPoint, some s.log.stripCursor,
              .records, 4134, [], 0, 0, 0⟩
            arbiter := claimEntered .audit s.arbiter }) ∧
      (s.log.appendPoint ≤ 4134 → 0 < s.log.stripCursor →
        exec row s = .next
          { (s.setPort p { s.port p with outstanding := (s.port p).outstanding + 1 }).answered p 0x30#8 tag
              .accepted [] with
            audit := ⟨true, some (p, tag), touchUp, false, some s.log.appendPoint, some s.log.stripCursor,
              .strips, 0, [], 0, 0, 0⟩
            arbiter := claimEntered .audit s.arbiter }) ∧
      (s.log.appendPoint ≤ 4134 → s.log.stripCursor = 0 →
        ∃ t : State, exec row s = .next t ∧ t.audit.running = false ∧ t.arbiter = s.arbiter ∧
          (t.port p).outstanding = (s.port p).outstanding ∧
          (t.port p).results = (s.port p).results ++ [⟨.ok, tag, .audit, .audit 0 0 0⟩] ∧
          (t.port p).reply = some ⟨.accepted, 0x30#8, tag, []⟩))

/-! ### Fetches -/

/-- FETCH_REPLY: the reply and the slot to EMPTY, PENDING while WORKING, NONE while EMPTY; and the READ's
burst end and a fetch in either order. -/
def Obligations.FetchReplyAnswers : Prop :=
  ∀ (bus : Bus) (p : Port) (s : State), Fetches s bus p .fetchReply →
    (∀ i : Item, (s.port p).slot = .replyReady → (s.port p).reply = some i →
      exec (.fetchReply bus) s = .next
        (s.setPort p { s.port p with slot := .empty, reply := none, output := itemBytes i })) ∧
    (∀ r : ReadInHand, (s.port p).slot = .working r →
      exec (.fetchReply bus) s = .next
        (s.setPort p { s.port p with output := itemBytes ⟨.pending, 0x01#8, r.tag, []⟩ })) ∧
    ((s.port p).slot = .empty →
      exec (.fetchReply bus) s = .next
        (s.setPort p { s.port p with output := itemBytes ⟨.none, 0x00#8, 0x00#8, []⟩ })) ∧
    (∀ (e : DirEntry) (r : ReadInHand), s.arbiter.holder = .reader p e → (s.port p).slot = .working r →
      e.location + 1 + e.w < 16384 →
      ∃ (t u v : State) (i : Item), i.code = .data ∧ i.tag = r.tag ∧
        exec .readBurstEnd s = .next t ∧
        exec (.fetchReply bus) t = .next
          (t.setPort p { t.port p with slot := .empty, reply := none, output := itemBytes i }) ∧
        exec (.fetchReply bus) s = .next u ∧
        u = s.setPort p { s.port p with output := itemBytes ⟨.pending, 0x01#8, r.tag, []⟩ } ∧
        exec .readBurstEnd u = .next v ∧
        exec (.fetchReply bus) v = .next
          (v.setPort p { v.port p with slot := .empty, reply := none, output := itemBytes i }))

/-- FETCH_RESULT and FETCH_NOTICE: the oldest leaves and is returned, NONE when there is none; a LEVEL line is
judged again. -/
def Obligations.FetchTakesOldest : Prop :=
  ∀ (bus : Bus) (p : Port) (s : State),
    (Fetches s bus p .fetchResult →
      ((s.port p).results = [] →
        exec (.fetchResult bus) s = .next
          (s.setPort p { s.port p with output := itemBytes ⟨.none, 0x00#8, 0x00#8, []⟩ })) ∧
      (∀ (r : Result) (rest : List Result) (q : PortState), (s.port p).results = r :: rest →
        q = { s.port p with
          results := rest
          output := itemBytes ⟨r.code, commandCode r.cmd, r.tag, resultBody r.body⟩ } →
        exec (.fetchResult bus) s = .next
          (s.setPort p
            { q with lineLow := if (copyWord s 1).getLsbD (portIndex p) = true then workWaiting q
              else q.lineLow }))) ∧
    (Fetches s bus p .fetchNotice →
      ((s.port p).ring = [] →
        exec (.fetchNotice bus) s = .next
          (s.setPort p { s.port p with output := itemBytes ⟨.none, 0x00#8, 0x00#8, []⟩ })) ∧
      (∀ (n : Notice) (rest : List Notice) (q : PortState) (bytes : List Byte),
        (s.port p).ring = n :: rest →
        bytes = noticeByte n.kind :: flagByte (s.port p).wrapped :: leBytes n.id 2 ++ leBytes n.value.toNat 4 ++
          [originByte n.origin] →
        q = { s.port p with ring := rest, wrapped := false, output := bytes ++ [crc8 bytes] } →
        exec (.fetchNotice bus) s = .next
          (s.setPort p
            { q with lineLow := if (copyWord s 1).getLsbD (portIndex p) = true then workWaiting q
              else q.lineLow })))

/-- PORT_STATUS: the byte of Table 12-8 with its CRC-8, then the discard and truncated flags clear; on Port C
also for a read after SEND-FRAME. -/
def Obligations.PortStatusReports : Prop :=
  ∀ (bus : Bus) (p : Port) (s : State) (b : Byte), reachedPort s bus = some p →
    (p = .c → s.lastSelector = .portStatus ∨ s.lastSelector = .sendFrame) →
    b.toNat =
      (match (s.port p).slot with
        | .empty => 0
        | .working _ => 1
        | .replyReady => 2) +
      4 * (if s.device = .mounting then 2 else if (s.port p).wrapped = true then 3
        else if (s.port p).ring = [] then 0 else 1) +
      16 * (if (s.port p).results = [] then 0 else 1) + 32 * (s.port p).discard.toNat +
      64 * (s.port p).truncated.toNat + 128 * s.pgmEn.toNat →
    exec (.portStatus bus) s = .next
      (s.setPort p { s.port p with discard := false, truncated := false, output := [b, crc8 [b]] })

/-- LAST_SELECTOR_WRITE: a fetch or PORT-STATUS selector becomes Port C's last selector, whatever follows it;
an unknown selector and an empty write do nothing. A transaction that reaches no port does nothing, and a read
of Port C takes the effect of the last selector whichever fetch row names it.
The unpowered part and the naming of a Port C read are the model's readings (log entries 12 and 13). -/
def Obligations.LastSelectorKept : Prop :=
  (∀ (addr : BitVec 7) (sel : Byte) (rest : List Byte) (s : State),
    s.powered = true → addr = 0b10110#5 ++ s.portCAdr →
    exec (.lastSelectorWrite addr []) s = .next s ∧
    exec (.lastSelectorWrite addr (sel :: rest)) s =
      (if sel = 0x01#8 then exec (.frameDiscard (.i2c addr) rest) s
      else if sel = 0x02#8 then .next { s with lastSelector := .fetchReply }
      else if sel = 0x03#8 then .next { s with lastSelector := .fetchResult }
      else if sel = 0x04#8 then .next { s with lastSelector := .fetchNotice }
      else if sel = 0x05#8 then .next { s with lastSelector := .portStatus }
      else .next s)) ∧
  (∀ (bus : Bus) (bytes : List Byte) (s : State), reachedPort s bus = none →
    exec (frameRow bus bytes) s = .next s ∧ exec (.fetchReply bus) s = .next s ∧
    exec (.fetchResult bus) s = .next s ∧ exec (.fetchNotice bus) s = .next s ∧
    exec (.portStatus bus) s = .next s) ∧
  (∀ (addr : BitVec 7) (bytes : List Byte) (s : State),
    s.powered = false ∨ addr ≠ 0b10110#5 ++ s.portCAdr →
    exec (.lastSelectorWrite addr bytes) s = .next s ∧ reachedPort s (.i2c addr) = none) ∧
  (∀ (addr : BitVec 7) (s : State),
    exec (.fetchReply (.i2c addr)) s = exec (.portStatus (.i2c addr)) s ∧
    exec (.fetchResult (.i2c addr)) s = exec (.portStatus (.i2c addr)) s ∧
    exec (.fetchNotice (.i2c addr)) s = exec (.portStatus (.i2c addr)) s)

/-! ### The engine's start of work -/

/-- ENGINE_TAKE_JOB, a general start check fails: PROTECTED, then the access refusal, then the life-cycle
refusal, with sequence 0, attempt count 0 and the counter's value as reached value. -/
def Obligations.StartChecksRefuse : Prop :=
  ∀ (s : State) (j : Job) (rest : List Job) (code : Code), HeadJob s j rest →
    (if s.pgmEn = false then code = .isProtected
      else accessRefusal s j.port j.kind = some code ∨
        (accessRefusal s j.port j.kind = none ∧ lifeCycleRefusal s j.port j.kind = some code)) →
    exec .engineTakeJob s = .next (endedAtStart s j rest code)

/-- ENGINE_TAKE_JOB of an APPEND or DELETE past the general checks: STALE, DIR_FULL, NOT_FOUND, NO_SPACE in the
order of R51 and R52, or the span of R53 allocated and its header prepared; and the conditions of Table 3-6.
The 0 a prepared sequence holds as its last margin value is the model's choice (log entry 28). -/
def Obligations.RecordJobStarts : Prop :=
  (∀ (s : State) (j : Job) (rest : List Job), HeadJob s j rest → GeneralChecksPass s j →
    (∀ (key : Nat) (expected : Option Nat) (payload : List Byte), j.kind = .append key expected payload →
      ∀ w : Nat, w = (payload.length + 3) / 4 →
      (expectedMet expected (dirFind s.directory key) = false →
        exec .engineTakeJob s = .next (endedAtStart s j rest .stale)) ∧
      (expectedMet expected (dirFind s.directory key) = true →
        dirFind s.directory key = none → 1024 ≤ s.directory.length →
        exec .engineTakeJob s = .next (endedAtStart s j rest .dirFull)) ∧
      (expectedMet expected (dirFind s.directory key) = true →
        (dirFind s.directory key = none → s.directory.length < 1024) →
        (16384 < s.log.appendPoint + 5 + w ∨ 4294967295 ≤ s.log.nextSeq →
          exec .engineTakeJob s = .next (endedAtStart s j rest .noSpace)) ∧
        (s.log.appendPoint + 5 + w ≤ 16384 → s.log.nextSeq < 4294967295 →
          exec .engineTakeJob s = .next (recordStarted s j rest key .data payload)))) ∧
    (∀ (key : Nat) (expected : Option Nat), j.kind = .delete key expected →
      ((∀ e, dirFind s.directory key = some e → e.state = .deleted) →
        exec .engineTakeJob s = .next (endedAtStart s j rest .notFound)) ∧
      (∀ e : DirEntry, dirFind s.directory key = some e → e.state ≠ .deleted →
        (expectedMet expected (some e) = false →
          exec .engineTakeJob s = .next (endedAtStart s j rest .stale)) ∧
        (expectedMet expected (some e) = true →
          (16384 < s.log.appendPoint + 5 ∨ 4294967295 ≤ s.log.nextSeq →
            exec .engineTakeJob s = .next (endedAtStart s j rest .noSpace)) ∧
          (s.log.appendPoint + 5 ≤ 16384 → s.log.nextSeq < 4294967295 →
            exec .engineTakeJob s = .next (recordStarted s j rest key .tombstone [])))))) ∧
  (∀ (e : DirEntry) (n : Nat),
    expectedMet none none = true ∧ expectedMet none (some e) = true ∧ expectedMet (some 0) none = true ∧
    (expectedMet (some 0) (some e) = true ↔ e.state = .deleted ∨ e.state = .lost) ∧
    expectedMet (some (n + 1)) none = false ∧
    (expectedMet (some (n + 1)) (some e) = true ↔ (e.state = .live ∨ e.state = .deleted) ∧ e.seq = n + 1))

/-- ENGINE_TAKE_JOB of a COUNT-ADVANCE by n, or a COUNT-RAISE to a target n above the value: LIMIT, NO_STRIP,
the first thermometer step within the strip, or a strip opened; a COUNT-RAISE not above the value ends OK.
The 0 a prepared sequence holds as its last margin value is the model's choice (log entry 28). -/
def Obligations.CounterJobStarts : Prop :=
  ∀ (s : State) (j : Job) (rest : List Job) (c : Nat) (e : CounterEntry),
    HeadJob s j rest → GeneralChecksPass s j → e = counterEntry s c →
    (∀ v : Nat, j.kind = .countRaise c v → v ≤ e.value →
      exec .engineTakeJob s = .next (endedAtStart s j rest .ok)) ∧
    (∀ n : Nat, 1 ≤ n → (j.kind = .countAdvance c n ∨ j.kind = .countRaise c (e.value + n)) →
      (16777215 < e.value + n → exec .engineTakeJob s = .next (endedAtStart s j rest .limit)) ∧
      (e.value + n ≤ 16777215 →
        (∀ strip : Nat, e.strip = some strip →
          ∀ pos : Nat, pos = (match e.highest with | none => 0 | some h => h + 1) → pos + n ≤ 192 →
          ∃ cells : Word,
            (∀ i < 32, cells.getLsbD i = decide (pos % 32 ≤ i ∧ i < pos % 32 + min n (32 - pos % 32))) ∧
            exec .engineTakeJob s = .next
              (waitingFor s j rest (.counter ⟨c, e.value, e.value + n, n, pos, 0, none⟩)
                (38 + 8 * strip + 2 + pos / 32) cells)) ∧
        ((e.strip = none ∨ 192 < (match e.highest with | none => 0 | some h => h + 1) + n) →
          (512 ≤ s.log.stripCursor → exec .engineTakeJob s = .next (endedAtStart s j rest .noStrip)) ∧
          (s.log.stripCursor < 512 →
            exec .engineTakeJob s = .next
              { waitingFor s j rest
                  (.counter
                    ⟨c, e.value, e.value + n, n, (match e.highest with | none => 0 | some h => h + 1), 1,
                      some (s.log.stripCursor, .base)⟩)
                  (38 + 8 * s.log.stripCursor) (encodeBase (e.value + n)) with
                log := { s.log with stripCursor := s.log.stripCursor + 1 } }))))

/-- ENGINE_TAKE_JOB of a policy job, and ENGINE_TAKE_REPAIR: the one sequence of each is prepared.
The 0 a prepared sequence holds as its last margin value is the model's choice (log entry 28). -/
def Obligations.PolicyAndRepairStart : Prop :=
  (∀ (s : State) (j : Job) (rest : List Job), HeadJob s j rest → GeneralChecksPass s j →
    (∀ (target : PolicyTarget) (marks : Byte), j.kind = .restrict target marks →
      ∀ i : Nat, i = (match target with | .group g => 2 + g | .counter c => 18 + c) →
      exec .engineTakeJob s =
        .next (waitingFor s j rest (.policy false) i (copyWord s i ||| marks.setWidth 32))) ∧
    (∀ marks : Byte, j.kind = .setOption marks →
      exec .engineTakeJob s =
        .next (waitingFor s j rest (.policy false) 1 (copyWord s 1 ||| marks.setWidth 32))) ∧
    (j.kind = .close →
      exec .engineTakeJob s = .next (waitingFor s j rest (.policy false) 0 (BitVec.allOnes 32)))) ∧
  (∀ (s : State) (e : RepairEntry) (rest : List RepairEntry),
    s.device = .ready → s.engine.state = .idle → s.jobs = [] → s.pgmEn = true → s.repair.entries = e :: rest →
    exec .engineTakeRepair s = .next
      { s with
        engine := ⟨.waiting, none, some e, .none,
          some ⟨e.word, if e.kind = .retire then BitVec.allOnes 32 else 0#32, 0, 0#32, false⟩⟩
        arbiter := claimEntered .engine s.arbiter })

/-! ### Grants -/

/-- Which reader a reader grant goes to, and what the arbiter holds after it.
A grant decided before, at the free array, and not yet carried out (log entry 23) is ReadBurst's. -/
def Obligations.ReaderRotation : Prop :=
  State.reset.arbiter.lastServed = .c ∧
  (∀ (cut : PulseEffect) (s t : State), exec (.deviceReset cut) s = .next t → t.arbiter.lastServed = .c) ∧
  ∀ (s : State) (p : Port) (n : Fin 3),
    s.device = .ready → s.arbiter.holder = .none → s.arbiter.decided = none →
    (s.arbiter.claims.engine = true → s.arbiter.lastClass = .engine) →
    p = cyclicNext n s.arbiter.lastServed → claimPending s.arbiter.claims (.reader p) = true →
    (∀ m : Fin 3, m < n →
      claimPending s.arbiter.claims (.reader (cyclicNext m s.arbiter.lastServed)) = false) →
    ∃ t : State, exec .arrayGrant s = .next t ∧ t.arbiter.lastServed = p ∧
      t.arbiter.lastClass = .reader ∧
      t.arbiter.claims = markClaim s.arbiter.claims (.reader p) false

/-- A reader's grant: the lookup, and its answer at once with the array free when no word is to be read, else
the hold; READ_BURST_END then places DATA with the entry's payload and frees the array. The reader granted is the
one decided before, if one was, else the choice of Table 1-12; and a reader's claim entered first at a free array
is granted first, whatever job or READ comes after it.
That the grant is decided when the later claim is entered is the model's reading (log entry 23). -/
def Obligations.ReadBurst : Prop :=
  (∀ (s : State) (p : Port) (r : ReadInHand) (granted : State),
    s.device = .ready → s.arbiter.holder = .none →
    (s.arbiter.decided = some (.reader p) ∨
      s.arbiter.decided = none ∧ chooseClaimant s.arbiter = some (.reader p)) →
    (s.port p).slot = .working r →
    granted = { s with arbiter := recordGrant (.reader p) s.arbiter } →
    (keyDenied s p r.key = true →
      exec .arrayGrant s = .next (answer p 0x01#8 r.tag .denied [] granted)) ∧
    (keyDenied s p r.key = false →
      (dirFind s.directory r.key = none →
        exec .arrayGrant s = .next (answer p 0x01#8 r.tag .notFound [] granted)) ∧
      (∀ e : DirEntry, dirFind s.directory r.key = some e →
        (e.state = .deleted →
          exec .arrayGrant s = .next (answer p 0x01#8 r.tag .deleted
            (leBytes e.key 2 ++ leBytes e.seq 4 ++ [portByte e.writer]) granted)) ∧
        (e.state = .lost →
          exec .arrayGrant s = .next (answer p 0x01#8 r.tag .lost
            (leBytes e.key 2 ++ leBytes e.seq 4 ++ [portByte e.writer]) granted)) ∧
        (e.state = .live → e.w = 0 →
          exec .arrayGrant s = .next (answer p 0x01#8 r.tag .data
            (leBytes e.key 2 ++ leBytes e.seq 4 ++ [portByte e.writer, 0x00#8]) granted)) ∧
        (e.state = .live → e.w ≠ 0 →
          exec .arrayGrant s = .next
            { granted with arbiter := { granted.arbiter with holder := .reader p e } })))) ∧
  (∀ (s : State) (p : Port) (r : ReadInHand) (e : DirEntry) (payload : List Byte),
    s.arbiter.holder = .reader p e → (s.port p).slot = .working r → e.location + 1 + e.w < 16384 →
    payload = (((List.range e.w).map (fun i => readNormal s.array (e.location + 2 + i))).flatMap
      (fun v => leBytes v.toNat 4)).take (4 * e.w - e.pad) →
    exec .readBurstEnd s = .next
      { s.setPort p { s.port p with
          slot := .replyReady
          reply := some ⟨.data, 0x01#8, r.tag,
            leBytes e.key 2 ++ leBytes e.seq 4 ++ [portByte e.writer, BitVec.ofNat 8 (4 * e.w - e.pad)] ++
              payload⟩ } with
        arbiter := { s.arbiter with holder := .none } }) ∧
  (∀ (busP busQ : Bus) (p q : Port) (s : State) (tagP tagQ : Byte) (keyP keyQ : Nat),
    Takes s busP p → Takes s busQ q → q ≠ p → s.device = .ready → s.arbiter.holder = .none →
    s.arbiter.decided = none → s.arbiter.claims = ⟨false, false, false, false, false⟩ →
    1 ≤ keyP → keyP ≤ 4094 → 1 ≤ keyQ → keyQ ≤ 4094 →
    ∃ u v w x y : State,
      exec (.read busP (goodFrame .read tagP (leBytes keyP 2))) s = .next u ∧
      exec (.read busQ (goodFrame .read tagQ (leBytes keyQ 2))) u = .next v ∧
      exec .arrayGrant v = .next w ∧ w.arbiter.lastServed = p ∧
      claimPending w.arbiter.claims (.reader p) = false ∧ claimPending w.arbiter.claims (.reader q) = true ∧
      exec .engineTakeJob u = .next x ∧ exec .arrayGrant x = .next y ∧
      y.arbiter.lastClass = .reader ∧ y.arbiter.lastServed = p ∧
      y.arbiter.claims.engine = x.arbiter.claims.engine)

/-- ARRAY_GRANT to the engine, when no reader waits or the last grant was not the engine's: the opening read;
SUCCEEDED with no pulse, BLOCKED with PGM_EN low, or the first pulse. To the audit, when no other claim is
pending: it holds the array. With no claim pending, or the array held, nothing is granted. A grant decided before
is carried out as decided (log entry 23), and the sequence's end frees the array.
The clause of a grant that is not due is the model's choice (log entry 8). -/
def Obligations.EngineAndAuditGrants : Prop :=
  (∀ (s : State) (q : Sequence) (granted : State) (opened : Sequence),
    s.device = .ready → s.arbiter.holder = .none →
    (s.arbiter.decided = some .engine ∨
      s.arbiter.decided = none ∧ s.arbiter.claims.engine = true ∧
        ((s.arbiter.claims.readerA = false ∧ s.arbiter.claims.readerB = false ∧
          s.arbiter.claims.readerC = false) ∨ s.arbiter.lastClass ≠ .engine)) →
    s.engine.seq = some q → q.word < 16384 →
    opened = { q with
      target := q.target ||| readNormal s.array q.word, pulses := 0, margin := readMargin s.array q.word,
      cut := false } →
    granted = { s with
      arbiter := { s.arbiter with
        holder := .engine, claims := markClaim s.arbiter.claims .engine false, lastClass := .engine,
        decided := none } } →
    (opened.target &&& ~~~ opened.margin = 0#32 →
      exec .arrayGrant s = .next
        (releaseArray
          (handOver ⟨q.word, .succeeded, 0, readNormal s.array q.word, readMargin s.array q.word⟩
            { granted with engine := { s.engine with seq := none } }))) ∧
    (opened.target &&& ~~~ opened.margin ≠ 0#32 → s.pgmEn = false →
      exec .arrayGrant s = .next
        (releaseArray
          (handOver ⟨q.word, .blocked, 0, readNormal s.array q.word, readMargin s.array q.word⟩
            { granted with engine := { s.engine with seq := none } }))) ∧
    (opened.target &&& ~~~ opened.margin ≠ 0#32 → s.pgmEn = true →
      exec .arrayGrant s = .next
        { granted with engine := { s.engine with state := .programming, seq := some opened } })) ∧
  (∀ s : State, s.device = .ready → s.arbiter.holder = .none →
    (s.arbiter.decided = some .audit ∨
      s.arbiter.decided = none ∧ s.arbiter.claims = ⟨false, false, false, false, true⟩) →
    exec .arrayGrant s = .next
      { s with arbiter :=
          { s.arbiter with
            holder := .audit, claims := markClaim s.arbiter.claims .audit false, decided := none } }) ∧
  (∀ s : State, s.device = .mounting ∨ s.arbiter.holder ≠ .none ∨
      s.arbiter.decided = none ∧ s.arbiter.claims = ⟨false, false, false, false, false⟩ →
    exec .arrayGrant s = .next s) ∧
  (∀ s : State, releaseArray s = { s with arbiter := { s.arbiter with holder := .none } })

/-! ### Pulses and what follows a sequence -/

/-- PULSE_DONE: the pulse acts on the target cells that read clear at margin, then the margin read ends the
sequence SUCCEEDED, FAILED at six pulses, BLOCKED with PGM_EN low, or makes the next pulse due.
A pulse already cut acts no more (log entry 16). -/
def Obligations.PulseJudged : Prop :=
  ∀ (s : State) (q : Sequence) (e : PulseEffect),
    Memory.wf s.array = true → s.engine.state = .programming → s.engine.seq = some q → q.word < 16384 →
    ∃ m : Memory, PulsedTo s e m ∧ Memory.wf m = true ∧
      ∀ cls : OutcomeClass,
        cls = (if q.target &&& ~~~ readMargin m q.word = 0#32 then .succeeded
          else if 6 ≤ q.pulses + 1 then .failed else .blocked) →
        (q.target &&& ~~~ readMargin m q.word ≠ 0#32 → q.pulses + 1 < 6 → s.pgmEn = true →
          exec (.pulseDone e) s = .next
            { s with
              array := m
              engine := { s.engine with
                seq := some ⟨q.word, q.target, q.pulses + 1, readMargin m q.word, false⟩ } }) ∧
        ((q.target &&& ~~~ readMargin m q.word = 0#32 ∨ 6 ≤ q.pulses + 1 ∨ s.pgmEn = false) →
          exec (.pulseDone e) s = .next
            (releaseArray
              (handOver ⟨q.word, cls, q.pulses + 1, readNormal m q.word, readMargin m q.word⟩
                { s with array := m, engine := { s.engine with seq := none } })))

/-- The outcome of a header, sequence, payload or check word (R54 to R56, R59, R62): verified, the next word
waits, or with PGM_EN low the job is abandoned; failed, a relocation: a fresh span at the append point while
attempts remain and it fits, else PROGRAM_FAIL or NO_SPACE, and with PGM_EN low PROTECTED; blocked, PROTECTED; and
a failed or blocked header sets the append point by Table 3-7.
That a relocation's check is computed anew, over its own sequence number, is the model's reading (log entry 24).
The 0 a prepared sequence holds as its last margin value is the model's choice (log entry 28). -/
def Obligations.RecordWordJudged : Prop :=
  ∀ (s : State) (j : Job) (w : RecordWork) (sp : Span) (o : SeqOutcome) (key : Nat) (kind : RecordKind)
      (payload : List Byte) (point : Nat),
    s.engine.job = some j → s.engine.repair = none → s.engine.work = .record w → w.span = some sp →
    recordFields j.kind = some (key, kind, payload) →
    w.next ≠ .commit → w.next ≠ .selfRetire → w.next ≠ .retire →
    point = (if w.next = .header then
        (if o.normal = 0#32 then sp.location
          else if o.normal = sp.header then sp.location + (5 + sp.w) else sp.location + 1)
      else s.log.appendPoint) →
    ∀ t : State, t = handOver o s →
    (o.cls = .succeeded → s.pgmEn = true →
      ∀ (next : RecordWord) (word : Nat) (target : Word),
        (next, word, target) =
          (match w.next with
            | .header => (.sequence, sp.location + 1, BitVec.ofNat 32 sp.seq)
            | .sequence =>
                if sp.w = 0 then (.check, sp.location + 2, sp.check)
                else (.payload 0, sp.location + 2, sp.payload.getD 0 0#32)
            | .payload i =>
                if i + 1 < sp.w then (.payload (i + 1), sp.location + 3 + i, sp.payload.getD (i + 1) 0#32)
                else (.check, sp.location + 2 + sp.w, sp.check)
            | _ => (.commit, sp.location + 3 + sp.w, BitVec.allOnes 32)) →
        t = { s with
          engine := ⟨.waiting, some j, none, .record { w with next := next }, some ⟨word, target, 0, 0#32, false⟩⟩
          arbiter := claimEntered .engine s.arbiter }) ∧
    (o.cls = .succeeded → s.pgmEn = false → RecordJobEnded s t j w sp .isProtected s.log.appendPoint) ∧
    (o.cls = .failed → Relocated s t j w sp key kind payload point) ∧
    (o.cls = .blocked → RecordJobEnded s t j w sp .isProtected point)

/-- The commit point (R57), the retire step that follows it, and the retire's outcome (R36, R60); a commit that
fails reading all ones is followed by the self-retire, any other failure and the self-retire's end by a relocation;
a blocked commit or self-retire, or PGM_EN low before the self-retire, abandons the job (R58, R59, R62).
That the retire-weak flag is clear with no previous record (log entry 25), and that a relocation's check is computed
anew, over its own sequence number (log entry 24), are the model's readings.
The 0 a prepared sequence holds as its last margin value is the model's choice (log entry 28). -/
def Obligations.CommitPublishes : Prop :=
  (∀ (s : State) (j : Job) (w : RecordWork) (sp : Span) (o : SeqOutcome) (key : Nat) (kind : RecordKind)
      (payload : List Byte) (n : Notice),
    s.engine.job = some j → s.engine.repair = none → s.engine.work = .record w → w.span = some sp →
    w.next = .commit → o.cls = .succeeded → recordFields j.kind = some (key, kind, payload) →
    s.directory.Pairwise (fun x y => x.key < y.key) →
    n = ⟨if kind = .data then .keyWritten else .keyDeleted, key, BitVec.ofNat 32 sp.seq, some j.port⟩ →
    ∃ t : State, handOver o s = t ∧
      PortsChanged { s with directory := t.directory, engine := t.engine, arbiter := t.arbiter } t ∧
      dirFind t.directory key = some
        ⟨key, if kind = .data then .live else .deleted, sp.location, sp.w, sp.pad, sp.seq, j.port⟩ ∧
      (∀ other : Nat, other ≠ key → dirFind t.directory other = dirFind s.directory other) ∧
      (∀ p : Port, p ≠ j.port → t.port p =
        if ⟨.key, key⟩ ∈ (s.port p).subs ∧ keyDenied s p key = false then
          noticed (alertLevel s p) n (s.port p)
        else s.port p) ∧
      (∀ e : DirEntry, dirFind s.directory key = some e → s.pgmEn = true →
        t.engine = ⟨.waiting, some j, none,
          .record { w with next := .retire, previous := some ⟨e.location, e.w, e.seq⟩ },
          some ⟨e.location + 4 + e.w, BitVec.allOnes 32, 0, 0#32, false⟩⟩ ∧
        t.arbiter = claimEntered .engine s.arbiter ∧ t.port j.port = s.port j.port) ∧
      (dirFind s.directory key = none ∨ s.pgmEn = false →
        t.engine = Engine.resting ∧ t.arbiter = s.arbiter ∧
        t.port j.port = jobEnded (alertLevel s j.port) j.orphan
          ⟨.ok, j.tag, jobCommand j.kind, .job sp.seq 0 (dirFind s.directory key).isSome w.attempts⟩
          (s.port j.port))) ∧
  (∀ (s : State) (j : Job) (w : RecordWork) (sp : Span) (o : SeqOutcome),
    s.engine.job = some j → s.engine.repair = none → s.engine.work = .record w → w.span = some sp →
    w.next = .retire → (recordFields j.kind).isSome = true →
    ∃ t : State, handOver o s = t ∧ PortsChanged { s with engine := Engine.resting } t ∧
      Resulted s t j ⟨.ok, j.tag, jobCommand j.kind, .job sp.seq 0 (o.normal == 0#32) w.attempts⟩) ∧
  (∀ (s : State) (j : Job) (w : RecordWork) (sp : Span) (o : SeqOutcome) (key : Nat) (kind : RecordKind)
      (payload : List Byte),
    s.engine.job = some j → s.engine.repair = none → s.engine.work = .record w → w.span = some sp →
    recordFields j.kind = some (key, kind, payload) →
    ∀ t : State, t = handOver o s →
    (w.next = .commit → o.cls = .failed → o.normal = BitVec.allOnes 32 →
      (s.pgmEn = true →
        t = { s with
          engine := ⟨.waiting, some j, none, .record { w with next := .selfRetire },
            some ⟨sp.location + 4 + sp.w, BitVec.allOnes 32, 0, 0#32, false⟩⟩
          arbiter := claimEntered .engine s.arbiter }) ∧
      (s.pgmEn = false → RecordJobEnded s t j w sp .isProtected s.log.appendPoint)) ∧
    (w.next = .commit ∧ o.cls = .failed ∧ o.normal ≠ BitVec.allOnes 32 ∨
        w.next = .selfRetire ∧ o.cls ≠ .blocked →
      Relocated s t j w sp key kind payload s.log.appendPoint) ∧
    (w.next = .commit ∨ w.next = .selfRetire → o.cls = .blocked →
      RecordJobEnded s t j w sp .isProtected s.log.appendPoint))

/-- The outcome of a word of a counter job. A thermometer word: value, ones and highest set position follow the
cells that read set, and the job ends, goes on at the next position, opens a strip, or is abandoned (R86, R87). A
base word: the claim, the cursor's return, a second attempt or the end (R89, R90, R92). A claim word and its void:
the counter moves to the strip, or the attempt failed, or the job is abandoned (R91). Ends carry PARTIAL once the
value moved, and COUNTER_MOVED then (R93, R94).
Table 5-6's PGM_EN sample before its cursor check is the model's reading (log entry 11), and R87 step 3 is taken
as it stands beside R88's six failures (log entry 27); a BLOCKED step that reached the target still ends short
(log entry 18).
The 0 a prepared sequence holds as its last margin value is the model's choice (log entry 28). -/
def Obligations.CounterWordJudged : Prop :=
  ∀ (s : State) (j : Job) (w : CounterWork) (e : CounterEntry) (o : SeqOutcome) (t : State),
    s.engine.job = some j → s.engine.repair = none → s.engine.work = .counter w →
    jobCounter j.kind = some w.counter → s.counters.find? (fun x => x.id == w.counter) = some e →
    t = handOver o s →
    (∀ (cells : Word) (moved : Nat), w.opening = none →
      (∀ i < 32, cells.getLsbD i =
        decide (w.nextPos % 32 ≤ i ∧ i < w.nextPos % 32 + min w.remaining (32 - w.nextPos % 32))) →
      moved = onesCount (o.normal &&& cells) → e.value + moved ≤ 16777215 →
      ∃ (e' : CounterEntry) (w' : CounterWork),
        e' = ⟨e.id, e.strip, e.base, e.ones + moved, e'.highest, e.value + moved⟩ ∧
        (∀ p : Nat,
          (e.highest = some p ∨ ∃ b < 32, o.normal.getLsbD b = true ∧ p = w.nextPos / 32 * 32 + b) →
          ∃ h, e'.highest = some h ∧ p ≤ h) ∧
        (∀ h : Nat, e'.highest = some h →
          e.highest = some h ∨ ∃ b < 32, o.normal.getLsbD b = true ∧ h = w.nextPos / 32 * 32 + b) ∧
        w' = { w with
          remaining := w.remaining - moved
          nextPos :=
            if o.cls = .failed then w.nextPos + min w.remaining (32 - w.nextPos % 32)
            else match e'.highest with
              | none => 0
              | some h => h + 1 } ∧
        CounterSet s t w.counter e' ∧
        (o.cls = .blocked →
          CounterJobEnded s t j w e' (shortCode w e'.value .isProtected) s.log.stripCursor) ∧
        (o.cls ≠ .blocked →
          (w'.remaining = 0 → CounterJobEnded s t j w e' .ok s.log.stripCursor) ∧
          (w'.remaining ≠ 0 → w'.nextPos < 192 → ∀ strip : Nat, e.strip = some strip →
            (s.pgmEn = false →
              CounterJobEnded s t j w e' (shortCode w e'.value .isProtected) s.log.stripCursor) ∧
            (s.pgmEn = true →
              ∃ next : Word,
                (∀ i < 32, next.getLsbD i =
                  decide (w'.nextPos % 32 ≤ i ∧
                    i < w'.nextPos % 32 + min w'.remaining (32 - w'.nextPos % 32))) ∧
                CounterJobWaits s t j w' e' (38 + 8 * strip + 2 + w'.nextPos / 32) next s.log.stripCursor)) ∧
          (w'.remaining ≠ 0 → 192 ≤ w'.nextPos → StripNeeded s t j w' e' s.log.stripCursor))) ∧
    (∀ n cursor : Nat, w.opening = some (n, .base) →
      cursor = (if o.normal = 0#32 then n else s.log.stripCursor) →
      (o.cls = .succeeded → s.pgmEn = true →
        CounterJobWaits s t j { w with opening := some (n, .claim) } e (39 + 8 * n) (encodeClaim w.counter)
          s.log.stripCursor) ∧
      (o.cls = .succeeded → s.pgmEn = false →
        CounterJobEnded s t j w e (shortCode w e.value .isProtected) s.log.stripCursor) ∧
      (o.cls = .failed → OpenFailed s t j w e cursor) ∧
      (o.cls = .blocked → CounterJobEnded s t j w e (shortCode w e.value .isProtected) cursor)) ∧
    (∀ (n : Nat) (stage : OpenStage) (claimed : CounterEntry), w.opening = some (n, stage) → stage ≠ .base →
      claimed = ⟨w.counter, some n, w.target, 0, none, w.target⟩ →
      (stage = .claim ∧ o.cls = .succeeded ∨
          o.normal = encodeClaim w.counter ∧
            (stage = .void ∨ o.cls = .blocked ∨ o.cls = .failed ∧ s.pgmEn = false) →
        CounterJobEnded s t j w claimed .ok s.log.stripCursor) ∧
      (stage = .claim → o.cls = .failed → o.normal = encodeClaim w.counter → s.pgmEn = true →
        CounterJobWaits s t j { w with opening := some (n, .void) } e (39 + 8 * n) (BitVec.allOnes 32)
          s.log.stripCursor) ∧
      (o.normal ≠ encodeClaim w.counter → o.cls = .failed ∨ stage = .void ∧ o.cls = .succeeded →
        OpenFailed s t j w e s.log.stripCursor) ∧
      (o.normal ≠ encodeClaim w.counter → o.cls = .blocked →
        CounterJobEnded s t j w e (shortCode w e.value .isProtected) s.log.stripCursor))

/-- The outcome of a policy job's sequence: the copy takes the word as it reads, the change is notified to every
port, a port whose alert-level mark came into force changes to LEVEL mode, and the job ends by Table 6-5. -/
def Obligations.PolicySequenceJudged : Prop :=
  ∀ (s : State) (j : Job) (ran : Bool) (o : SeqOutcome) (word : Nat) (cells : Word),
    s.engine.job = some j → s.engine.repair = none → s.engine.work = .policy ran →
    policyRequest j.kind = some (word, cells) → word < s.policy.length →
    ∃ t : State, handOver o s = t ∧
      PortsChanged { s with engine := Engine.resting, policy := s.policy.set word o.normal } t ∧
      ∀ (p : Port) (changed level : PortState) (r : Result),
        r = ⟨if o.cls = .blocked then .isProtected
          else if j.kind = .close then (if o.normal = 0#32 then .programFail else .ok)
          else if cells &&& ~~~ o.normal = 0#32 then .ok else .programFail,
          j.tag, jobCommand j.kind, .job 0 0 false 1⟩ →
        changed =
          (if o.normal = copyWord s word then s.port p
          else noticed (alertLevel t p) ⟨.policyChanged, word, o.normal, some j.port⟩ (s.port p)) →
        level =
          (if alertLevel t p = true ∧ alertLevel s p = false then
            { changed with pulseActive := false, lineLow := workWaiting changed }
          else changed) →
        t.port p = if p = j.port then jobEnded (alertLevel t p) j.orphan r level else level

/-- The outcome of a repair's sequence: done or failed, and off the list, unless BLOCKED. -/
def Obligations.RepairJudged : Prop :=
  ∀ (s : State) (e : RepairEntry) (o : SeqOutcome), s.engine.repair = some e →
    handOver o s =
      { s with
        engine := ⟨.idle, none, none, .none, none⟩
        repair :=
          if o.cls = .blocked then s.repair
          else if (e.kind = .retire ∧ o.normal ≠ 0#32) ∨ (e.kind = .touchUp ∧ o.cls = .succeeded) then
            ⟨s.repair.entries.tail, if s.repair.done < 65535 then s.repair.done + 1 else s.repair.done,
              s.repair.failed⟩
          else
            ⟨s.repair.entries.tail, s.repair.done,
              if s.repair.failed < 65535 then s.repair.failed + 1 else s.repair.failed⟩ }

/-- AUDIT_UNIT_END: a CLAIMED strip's or a competing record's weak words are found in ascending order with their
region and id, the first 16 listed and the rest counted, and with the touch-up flag offered to the repair list, a
record's only when its key has an entry; other units are stepped over; a BLANK header or a unit that would pass the
captured append point ends stage RECORDS. The array is released and the walk goes on, to its end, where the result
is delivered. And the answers of Table 7-6.
The bound by the captured append point is the model's reading (log entry 15); that a completed audit keeps its
requester, flags, captures, stage and position is the model's choice (log entry 17). -/
def Obligations.AuditUnitExamined : Prop :=
  (∀ (s : State) (position : Nat), s.arbiter.holder = .audit → s.audit.running = true →
    s.audit.findings.length ≤ 16 → s.audit.position = position →
    (∀ found : List Finding, s.audit.stage = .strips → position < 512 →
      found = (match classifyStrip s.array position with
        | .claimed counter _ =>
            (((List.range 8).map (fun i => 38 + 8 * position + i)).filter
              (fun i => readNormal s.array i != readMargin s.array i)).map (fun i => ⟨i, .strip, counter⟩)
        | .free => []
        | .dead => []) →
      ∃ t : State, exec .auditUnitEnd s = .next t ∧ AuditWentOn s t .strips (position + 1) ∧
        FindingsMade s t found ∧ TouchUpsOffered s t s.audit.touchUp (found.map (fun x => x.word))) ∧
    (s.audit.stage = .records → position < 16384 →
      (∀ len : Nat,
        len = (match spanHeader s.array position with
          | none => 1
          | some hdr => 5 + hdr.w) →
        (readNormal s.array position = 0#32 ∨ s.audit.capturedAppend.getD 0 < position + len →
          ∃ t : State, exec .auditUnitEnd s = .next t ∧ AuditWentOn s t .strips 0 ∧
            FindingsMade s t [] ∧ TouchUpsOffered s t false []) ∧
        (readNormal s.array position ≠ 0#32 → position + len ≤ s.audit.capturedAppend.getD 0 →
          competes (classifyRecord s.array position) = false →
          ∃ t : State, exec .auditUnitEnd s = .next t ∧ AuditWentOn s t .records (position + len) ∧
            FindingsMade s t [] ∧ TouchUpsOffered s t false [])) ∧
      (∀ (hdr : Header) (found : List Finding), spanHeader s.array position = some hdr →
        competes (classifyRecord s.array position) = true →
        position + 5 + hdr.w ≤ s.audit.capturedAppend.getD 0 →
        found = (((List.range (4 + hdr.w)).map (fun i => position + i)).filter
          (fun i => readNormal s.array i != readMargin s.array i)).map (fun i => ⟨i, .record, hdr.key⟩) →
        ∃ t : State, exec .auditUnitEnd s = .next t ∧ AuditWentOn s t .records (position + (5 + hdr.w)) ∧
          FindingsMade s t found ∧
          TouchUpsOffered s t (s.audit.touchUp && (dirFind s.directory hdr.key).isSome)
            (found.map (fun x => x.word))))) ∧
  (∀ (c : RecordClass), competes c = true ↔ c = .candidate ∨ c = .damaged) ∧
  (∀ (r : RepairList) (e : RepairEntry),
    offerAnswer r e =
      (if ∃ x ∈ r.entries, x.word = e.word then .present
      else if 32 ≤ r.entries.length then .full else .added) ∧
    offer r e = if offerAnswer r e = .added then { r with entries := r.entries ++ [e] } else r)

end Statements
end

