-- ==== Sys2Proof/Laws/Directory.lean ====
section
/-! SUPPORT. The directory: a commit is looked up as committed, leaves other keys, and keeps the order (R66, R67). -/

namespace Sys2Proof.Machine

/-- Every key of `d` is above `lo`, and the keys rise strictly. -/
def keysAbove (lo : Nat) : List DirEntry → Prop
  | [] => True
  | e :: rest => lo ≤ e.key ∧ keysAbove (e.key + 1) rest

theorem keysAbove_iff (lo : Nat) (d : List DirEntry) :
    keysAbove lo d ↔ (∀ e ∈ d, lo ≤ e.key) ∧ d.Pairwise (fun x y => x.key < y.key) := by
  induction d generalizing lo with
  | nil => simp [keysAbove]
  | cons x xs ih =>
    simp only [keysAbove, ih, List.pairwise_cons, List.mem_cons, forall_eq_or_imp]
    constructor
    · rintro ⟨h1, h2, h3⟩
      exact ⟨⟨h1, fun y hy => Nat.le_trans h1 (Nat.le_of_succ_le (h2 y hy))⟩, h2, h3⟩
    · rintro ⟨⟨h1, _⟩, h2, h3⟩
      exact ⟨h1, h2, h3⟩

theorem keysAbove_dirPut {lo : Nat} {e : DirEntry} (he : lo ≤ e.key) :
    ∀ {d : List DirEntry}, keysAbove lo d → keysAbove lo (dirPut d e)
  | [], _ => ⟨he, trivial⟩
  | x :: rest, hd => by
    unfold dirPut
    split
    · next h => exact ⟨he, h, hd.2⟩
    · split
      · next h => exact ⟨he, h ▸ hd.2⟩
      · next h1 h2 => exact ⟨hd.1, keysAbove_dirPut (by omega) hd.2⟩

/-- A commit keeps the directory in key order (R66). -/
theorem pairwise_dirPut {d : List DirEntry} (h : d.Pairwise (fun x y => x.key < y.key)) (e : DirEntry) :
    (dirPut d e).Pairwise (fun x y => x.key < y.key) :=
  ((keysAbove_iff 0 _).1 (keysAbove_dirPut (Nat.zero_le _)
    ((keysAbove_iff 0 d).2 ⟨fun _ _ => Nat.zero_le _, h⟩))).2

theorem dirFind_cons (x : DirEntry) (d : List DirEntry) (key : Nat) :
    dirFind (x :: d) key = if x.key = key then some x else dirFind d key := by
  by_cases h : x.key = key <;> simp [dirFind, h]

/-- The committed key is found as committed (R67, R69). -/
theorem dirFind_dirPut_same (d : List DirEntry) (e : DirEntry) : dirFind (dirPut d e) e.key = some e := by
  induction d with
  | nil => simp [dirPut, dirFind_cons]
  | cons x rest ih =>
    unfold dirPut
    split
    · simp [dirFind_cons]
    · split
      · simp [dirFind_cons]
      · next h => rw [dirFind_cons, if_neg (fun k => h k.symm), ih]

/-- A commit changes no other key's lookup (R67). -/
theorem dirFind_dirPut_other (d : List DirEntry) {e : DirEntry} {key : Nat} (h : key ≠ e.key) :
    dirFind (dirPut d e) key = dirFind d key := by
  induction d with
  | nil => simp [dirPut, dirFind, h.symm]
  | cons x rest ih =>
    unfold dirPut
    split
    · rw [dirFind_cons, if_neg h.symm]
    · split
      · next _ hk => rw [dirFind_cons, dirFind_cons, if_neg h.symm, if_neg (fun k => h (k.symm.trans hk.symm))]
      · rw [dirFind_cons, dirFind_cons, ih]

/-- A commit inserts one entry, or none when the key has one (R67). -/
theorem length_dirPut_le (d : List DirEntry) (e : DirEntry) : (dirPut d e).length ≤ d.length + 1 := by
  induction d with
  | nil => simp [dirPut]
  | cons x rest ih =>
    unfold dirPut
    split
    · simp
    · split
      · simp
      · simp; omega

/-- A commit of a key that has an entry keeps the number of entries (R67). -/
theorem length_dirPut_of_isSome {d : List DirEntry} (hd : d.Pairwise (fun x y => x.key < y.key)) {e : DirEntry}
    (h : (dirFind d e.key).isSome = true) : (dirPut d e).length = d.length := by
  induction d with
  | nil => simp [dirFind] at h
  | cons x rest ih =>
    rw [dirFind_cons] at h
    unfold dirPut
    by_cases hk : x.key = e.key
    · rw [if_neg (by omega), if_pos hk.symm]; rfl
    · rw [if_neg hk] at h
      have hlt : x.key < e.key := by
        obtain ⟨y, hy⟩ := Option.isSome_iff_exists.1 h
        have hm := List.mem_of_find?_eq_some hy
        have hy' : y.key = e.key := by simpa using List.find?_some hy
        have := (List.pairwise_cons.1 hd).1 y hm
        omega
      rw [if_neg (by omega), if_neg (by omega)]
      simp [ih (List.pairwise_cons.1 hd).2 h]

end Sys2Proof.Machine
end

