-- ==== Sys2Proof/Laws/State.lean ====
section
/-! SUPPORT. What each named update of the state leaves alone, field by field, and what it sets. -/

namespace Sys2Proof.Machine

/-! ### Ports -/

@[simp] theorem State.port_setPort_same (s : State) (p : Port) (q : PortState) : (s.setPort p q).port p = q := by
  cases p <;> rfl

theorem State.port_setPort_other (s : State) {p r : Port} (q : PortState) (h : r ≠ p) :
    (s.setPort p q).port r = s.port r := by
  cases p <;> cases r <;> first | rfl | exact absurd rfl h

theorem State.port_setPort (s : State) (p r : Port) (q : PortState) :
    (s.setPort p q).port r = if r = p then q else s.port r := by
  cases p <;> cases r <;> rfl

@[simp] theorem State.setPort_port (s : State) (p : Port) : s.setPort p (s.port p) = s := by
  cases p <;> rfl

@[simp] theorem State.setPort_setPort (s : State) (p : Port) (q r : PortState) :
    (s.setPort p q).setPort p r = s.setPort p r := by
  cases p <;> rfl

/-- Replacing a port's state leaves everything that is no port's. -/
@[simp] theorem State.setPort_frame (s : State) (p : Port) (q : PortState) :
    (s.setPort p q).array = s.array ∧ (s.setPort p q).powered = s.powered ∧
    (s.setPort p q).rstLow = s.rstLow ∧ (s.setPort p q).pgmEn = s.pgmEn ∧
    (s.setPort p q).portCAdr = s.portCAdr ∧ (s.setPort p q).device = s.device ∧
    (s.setPort p q).mount = s.mount ∧ (s.setPort p q).policy = s.policy ∧
    (s.setPort p q).directory = s.directory ∧ (s.setPort p q).counters = s.counters ∧
    (s.setPort p q).log = s.log ∧ (s.setPort p q).repair = s.repair ∧
    (s.setPort p q).engine = s.engine ∧ (s.setPort p q).jobs = s.jobs ∧
    (s.setPort p q).arbiter = s.arbiter ∧ (s.setPort p q).audit = s.audit ∧
    (s.setPort p q).lastSelector = s.lastSelector ∧ (s.setPort p q).pending = s.pending := by
  cases p <;> simp [State.setPort]

/-- Two states with the same three ports agree on every port. -/
theorem State.port_congr {s t : State} (ha : t.portA = s.portA) (hb : t.portB = s.portB)
    (hc : t.portC = s.portC) (p : Port) : t.port p = s.port p := by
  cases p <;> assumption

/-! ### The policy copy is read through `policy` alone -/

theorem copyWord_congr {s t : State} (h : t.policy = s.policy) (i : Nat) : copyWord t i = copyWord s i := by
  simp [copyWord, h]

@[simp] theorem copyWord_setPort (s : State) (p : Port) (q : PortState) (i : Nat) :
    copyWord (s.setPort p q) i = copyWord s i := copyWord_congr (by simp) i

theorem levelMode_congr {s t : State} (h : t.policy = s.policy) (p : Port) : levelMode t p = levelMode s p := by
  simp [levelMode, copyWord, h]

@[simp] theorem levelMode_setPort (s : State) (p r : Port) (q : PortState) :
    levelMode (s.setPort r q) p = levelMode s p := levelMode_congr (by simp) p

theorem keyDenied_congr {s t : State} (h : t.policy = s.policy) (p : Port) (key : Nat) :
    keyDenied t p key = keyDenied s p key := by
  simp [keyDenied, keyPolicy, copyWord, h]

theorem counterDenied_congr {s t : State} (h : t.policy = s.policy) (p : Port) (c : Nat) :
    counterDenied t p c = counterDenied s p c := by
  simp [counterDenied, counterPolicy, copyWord, h]

theorem counterEntry_congr {s t : State} (h : t.counters = s.counters) (c : Nat) :
    counterEntry t c = counterEntry s c := by
  simp [counterEntry, h]

/-! ### Updates of the shared blocks -/

@[simp] theorem releaseArray_arbiter (s : State) :
    (releaseArray s).arbiter = { s.arbiter with holder := .none } := rfl

@[simp] theorem releaseArray_frame (s : State) :
    (releaseArray s).array = s.array ∧ (releaseArray s).pgmEn = s.pgmEn ∧
    (releaseArray s).device = s.device ∧ (releaseArray s).mount = s.mount ∧
    (releaseArray s).policy = s.policy ∧ (releaseArray s).directory = s.directory ∧
    (releaseArray s).counters = s.counters ∧ (releaseArray s).log = s.log ∧
    (releaseArray s).repair = s.repair ∧ (releaseArray s).engine = s.engine ∧
    (releaseArray s).jobs = s.jobs ∧ (releaseArray s).audit = s.audit ∧
    (releaseArray s).pending = s.pending ∧ ∀ p, (releaseArray s).port p = s.port p :=
  ⟨rfl, rfl, rfl, rfl, rfl, rfl, rfl, rfl, rfl, rfl, rfl, rfl, rfl, fun p => by cases p <;> rfl⟩

@[simp] theorem enterClaim_arbiter (who : Claimant) (s : State) :
    (enterClaim who s).arbiter = claimEntered who s.arbiter := rfl

@[simp] theorem enterClaim_frame (who : Claimant) (s : State) :
    (enterClaim who s).array = s.array ∧ (enterClaim who s).pgmEn = s.pgmEn ∧
    (enterClaim who s).device = s.device ∧ (enterClaim who s).mount = s.mount ∧
    (enterClaim who s).policy = s.policy ∧ (enterClaim who s).directory = s.directory ∧
    (enterClaim who s).counters = s.counters ∧ (enterClaim who s).log = s.log ∧
    (enterClaim who s).repair = s.repair ∧ (enterClaim who s).engine = s.engine ∧
    (enterClaim who s).jobs = s.jobs ∧ (enterClaim who s).audit = s.audit ∧
    (enterClaim who s).pending = s.pending ∧ ∀ p, (enterClaim who s).port p = s.port p :=
  ⟨rfl, rfl, rfl, rfl, rfl, rfl, rfl, rfl, rfl, rfl, rfl, rfl, rfl, fun p => by cases p <;> rfl⟩

@[simp] theorem setWork_engine (w : Work) (s : State) : (setWork w s).engine = { s.engine with work := w } := rfl

@[simp] theorem setWork_frame (w : Work) (s : State) :
    (setWork w s).array = s.array ∧ (setWork w s).pgmEn = s.pgmEn ∧ (setWork w s).device = s.device ∧
    (setWork w s).mount = s.mount ∧ (setWork w s).policy = s.policy ∧
    (setWork w s).directory = s.directory ∧ (setWork w s).counters = s.counters ∧
    (setWork w s).log = s.log ∧ (setWork w s).repair = s.repair ∧ (setWork w s).jobs = s.jobs ∧
    (setWork w s).arbiter = s.arbiter ∧ (setWork w s).audit = s.audit ∧
    (setWork w s).pending = s.pending ∧ ∀ p, (setWork w s).port p = s.port p :=
  ⟨rfl, rfl, rfl, rfl, rfl, rfl, rfl, rfl, rfl, rfl, rfl, rfl, rfl, fun p => by cases p <;> rfl⟩

@[simp] theorem prepare_engine (i : Nat) (v : Word) (s : State) :
    (prepare i v s).engine = { s.engine with state := .waiting, seq := some ⟨i, v, 0, 0#32, false⟩ } := rfl

@[simp] theorem prepare_arbiter (i : Nat) (v : Word) (s : State) :
    (prepare i v s).arbiter = claimEntered .engine s.arbiter := rfl

@[simp] theorem claimEntered_frame (who : Claimant) (a : Arbiter) :
    (claimEntered who a).holder = a.holder ∧ (claimEntered who a).claims = markClaim a.claims who true ∧
    (claimEntered who a).lastClass = a.lastClass ∧ (claimEntered who a).lastServed = a.lastServed :=
  ⟨rfl, rfl, rfl, rfl⟩

/-- What a claim's entry decides: nothing at a held array or with a grant decided, else the choice among the
claims already pending (R17). -/
theorem claimEntered_decided (who : Claimant) (a : Arbiter) :
    (claimEntered who a).decided =
      if a.holder = .none ∧ a.decided = none then chooseClaimant a else a.decided := rfl

/-- All a grant does to the arbiter but for the last grant class and the last-served reader. -/
@[simp] theorem recordGrant_frame (who : Claimant) (a : Arbiter) :
    (recordGrant who a).holder = a.holder ∧ (recordGrant who a).claims = markClaim a.claims who false ∧
      (recordGrant who a).decided = none := by
  cases who <;> exact ⟨rfl, rfl, rfl⟩

theorem grantee_of_decided {a : Arbiter} {who : Claimant} (h : a.decided = some who) : grantee a = some who := by
  simp [grantee, h]

theorem grantee_of_undecided {a : Arbiter} (h : a.decided = none) : grantee a = chooseClaimant a := by
  simp [grantee, h]

/-- A claim entered at a free array leaves the grant to the claimant already due it. -/
theorem grantee_claimEntered {a : Arbiter} {due : Claimant} (who : Claimant) (hf : a.holder = .none)
    (h : grantee a = some due) : grantee (claimEntered who a) = some due := by
  cases hd : a.decided with
  | none => simp [grantee, claimEntered, hf, hd, (grantee_of_undecided hd).symm.trans h]
  | some d => rw [grantee_of_decided hd] at h; simp [grantee, claimEntered, hd, h]

@[simp] theorem prepare_frame (i : Nat) (v : Word) (s : State) :
    (prepare i v s).array = s.array ∧ (prepare i v s).pgmEn = s.pgmEn ∧ (prepare i v s).device = s.device ∧
    (prepare i v s).mount = s.mount ∧ (prepare i v s).policy = s.policy ∧
    (prepare i v s).directory = s.directory ∧ (prepare i v s).counters = s.counters ∧
    (prepare i v s).log = s.log ∧ (prepare i v s).repair = s.repair ∧ (prepare i v s).jobs = s.jobs ∧
    (prepare i v s).audit = s.audit ∧ (prepare i v s).pending = s.pending ∧
    ∀ p, (prepare i v s).port p = s.port p :=
  ⟨rfl, rfl, rfl, rfl, rfl, rfl, rfl, rfl, rfl, rfl, rfl, rfl, fun p => by cases p <;> rfl⟩

@[simp] theorem setAppendPoint_log (n : Nat) (s : State) :
    (setAppendPoint n s).log = { s.log with appendPoint := n } := rfl

@[simp] theorem setAppendPoint_frame (n : Nat) (s : State) :
    (setAppendPoint n s).array = s.array ∧ (setAppendPoint n s).pgmEn = s.pgmEn ∧
    (setAppendPoint n s).device = s.device ∧ (setAppendPoint n s).mount = s.mount ∧
    (setAppendPoint n s).policy = s.policy ∧ (setAppendPoint n s).directory = s.directory ∧
    (setAppendPoint n s).counters = s.counters ∧ (setAppendPoint n s).repair = s.repair ∧
    (setAppendPoint n s).engine = s.engine ∧ (setAppendPoint n s).jobs = s.jobs ∧
    (setAppendPoint n s).arbiter = s.arbiter ∧ (setAppendPoint n s).audit = s.audit ∧
    (setAppendPoint n s).pending = s.pending ∧ ∀ p, (setAppendPoint n s).port p = s.port p :=
  ⟨rfl, rfl, rfl, rfl, rfl, rfl, rfl, rfl, rfl, rfl, rfl, rfl, rfl, fun p => by cases p <;> rfl⟩

@[simp] theorem returnCursor_log (n : Nat) (s : State) :
    (returnCursor n s).log = { s.log with stripCursor := n } := rfl

@[simp] theorem returnCursor_frame (n : Nat) (s : State) :
    (returnCursor n s).array = s.array ∧ (returnCursor n s).pgmEn = s.pgmEn ∧
    (returnCursor n s).device = s.device ∧ (returnCursor n s).mount = s.mount ∧
    (returnCursor n s).policy = s.policy ∧ (returnCursor n s).directory = s.directory ∧
    (returnCursor n s).counters = s.counters ∧ (returnCursor n s).repair = s.repair ∧
    (returnCursor n s).engine = s.engine ∧ (returnCursor n s).jobs = s.jobs ∧
    (returnCursor n s).arbiter = s.arbiter ∧ (returnCursor n s).audit = s.audit ∧
    (returnCursor n s).pending = s.pending ∧ ∀ p, (returnCursor n s).port p = s.port p :=
  ⟨rfl, rfl, rfl, rfl, rfl, rfl, rfl, rfl, rfl, rfl, rfl, rfl, rfl, fun p => by cases p <;> rfl⟩

@[simp] theorem setCounter_frame (e : CounterEntry) (s : State) :
    (setCounter e s).array = s.array ∧ (setCounter e s).pgmEn = s.pgmEn ∧
    (setCounter e s).device = s.device ∧ (setCounter e s).mount = s.mount ∧
    (setCounter e s).policy = s.policy ∧ (setCounter e s).directory = s.directory ∧
    (setCounter e s).log = s.log ∧ (setCounter e s).repair = s.repair ∧
    (setCounter e s).engine = s.engine ∧ (setCounter e s).jobs = s.jobs ∧
    (setCounter e s).arbiter = s.arbiter ∧ (setCounter e s).audit = s.audit ∧
    (setCounter e s).pending = s.pending ∧ ∀ p, (setCounter e s).port p = s.port p :=
  ⟨rfl, rfl, rfl, rfl, rfl, rfl, rfl, rfl, rfl, rfl, rfl, rfl, rfl, fun p => by cases p <;> rfl⟩

@[simp] theorem setCopyWord_policy (i : Nat) (v : Word) (s : State) :
    (setCopyWord i v s).policy = s.policy.set i v := rfl

@[simp] theorem setCopyWord_frame (i : Nat) (v : Word) (s : State) :
    (setCopyWord i v s).array = s.array ∧ (setCopyWord i v s).pgmEn = s.pgmEn ∧
    (setCopyWord i v s).device = s.device ∧ (setCopyWord i v s).mount = s.mount ∧
    (setCopyWord i v s).directory = s.directory ∧ (setCopyWord i v s).counters = s.counters ∧
    (setCopyWord i v s).log = s.log ∧ (setCopyWord i v s).repair = s.repair ∧
    (setCopyWord i v s).engine = s.engine ∧ (setCopyWord i v s).jobs = s.jobs ∧
    (setCopyWord i v s).arbiter = s.arbiter ∧ (setCopyWord i v s).audit = s.audit ∧
    (setCopyWord i v s).pending = s.pending ∧ ∀ p, (setCopyWord i v s).port p = s.port p :=
  ⟨rfl, rfl, rfl, rfl, rfl, rfl, rfl, rfl, rfl, rfl, rfl, rfl, rfl, fun p => by cases p <;> rfl⟩

@[simp] theorem orphanPort_frame (p : Port) (s : State) :
    (orphanPort p s).array = s.array ∧ (orphanPort p s).pgmEn = s.pgmEn ∧
    (orphanPort p s).device = s.device ∧ (orphanPort p s).mount = s.mount ∧
    (orphanPort p s).policy = s.policy ∧ (orphanPort p s).directory = s.directory ∧
    (orphanPort p s).counters = s.counters ∧ (orphanPort p s).log = s.log ∧
    (orphanPort p s).repair = s.repair ∧ (orphanPort p s).arbiter = s.arbiter ∧
    (orphanPort p s).pending = s.pending ∧ ∀ r, (orphanPort p s).port r = s.port r :=
  ⟨rfl, rfl, rfl, rfl, rfl, rfl, rfl, rfl, rfl, rfl, rfl, fun r => by cases r <;> rfl⟩

/-! ### Claims -/

@[simp] theorem claimPending_markClaim_same (c : Claims) (who : Claimant) (on : Bool) :
    claimPending (markClaim c who on) who = on := by
  cases who with
  | engine => rfl
  | audit => rfl
  | reader p => cases p <;> rfl

theorem claimPending_markClaim_other (c : Claims) {who other : Claimant} (on : Bool) (h : other ≠ who) :
    claimPending (markClaim c who on) other = claimPending c other := by
  cases who with
  | engine => cases other with
    | engine => exact absurd rfl h
    | audit => rfl
    | reader r => cases r <;> rfl
  | audit => cases other with
    | engine => rfl
    | audit => exact absurd rfl h
    | reader r => cases r <;> rfl
  | reader p => cases other with
    | engine => cases p <;> rfl
    | audit => cases p <;> rfl
    | reader r => cases p <;> cases r <;> first | rfl | exact absurd rfl h

/-! ### The counter table and the repair list -/

theorem find_setCounter (l : List CounterEntry) (e : CounterEntry) (c : Nat) :
    (l.map (fun x => if x.id = e.id then e else x)).find? (fun x => x.id == c) =
      (l.find? (fun x => x.id == c)).map (fun x => if x.id = e.id then e else x) := by
  rw [List.find?_map]
  congr 2
  funext x
  by_cases h : x.id = e.id <;> simp [h]

/-- An entry replaced reads as replaced, when the counter had one (R83). -/
theorem counterEntry_setCounter_same {s : State} {e : CounterEntry}
    (h : (s.counters.find? (fun x => x.id == e.id)).isSome = true) : counterEntry (setCounter e s) e.id = e := by
  obtain ⟨x, hx⟩ := Option.isSome_iff_exists.1 h
  have hid : x.id = e.id := by simpa using List.find?_some hx
  simp only [counterEntry, setCounter, find_setCounter, hx]
  simp [hid]

/-- Replacing one counter's entry leaves the others (R83). -/
theorem counterEntry_setCounter_other (s : State) {e : CounterEntry} {c : Nat} (h : c ≠ e.id) :
    counterEntry (setCounter e s) c = counterEntry s c := by
  simp only [counterEntry, setCounter, find_setCounter]
  cases hx : s.counters.find? (fun x => x.id == c) with
  | none => rfl
  | some x =>
    have hid : x.id = c := by simpa using List.find?_some hx
    simp [hid, h]

/-- An offer changes nothing, or adds the entry at the tail of a list with room and without its word (R124). -/
theorem offer_cases (r : RepairList) (e : RepairEntry) :
    offer r e = r ∨
      (offer r e = { r with entries := r.entries ++ [e] } ∧ r.entries.length < 32 ∧
        ∀ x ∈ r.entries, x.word ≠ e.word) := by
  unfold offer offerAnswer
  by_cases h : r.entries.any (fun x => x.word == e.word) = true
  · exact .inl (by simp [h])
  · by_cases k : Config.repairMax ≤ r.entries.length
    · exact .inl (by simp [h, k])
    · refine .inr ⟨by simp [h, k], by simpa using k, fun x hx he => h ?_⟩
      exact List.any_eq_true.2 ⟨x, hx, by simp [he]⟩

end Sys2Proof.Machine
end

