-- ==== Sys2Proof/Laws/Ports.lean ====
section
/-! SUPPORT. What lines, notices, results, replies and the end of a job can do, said once for each. -/

namespace Sys2Proof.Machine

/-- Everything that is no port's is the same in two states. -/
structure SameBlocks (s t : State) : Prop where
  array : t.array = s.array
  powered : t.powered = s.powered
  rstLow : t.rstLow = s.rstLow
  pgmEn : t.pgmEn = s.pgmEn
  portCAdr : t.portCAdr = s.portCAdr
  device : t.device = s.device
  mount : t.mount = s.mount
  policy : t.policy = s.policy
  directory : t.directory = s.directory
  counters : t.counters = s.counters
  log : t.log = s.log
  repair : t.repair = s.repair
  engine : t.engine = s.engine
  jobs : t.jobs = s.jobs
  arbiter : t.arbiter = s.arbiter
  audit : t.audit = s.audit
  lastSelector : t.lastSelector = s.lastSelector
  pending : t.pending = s.pending

theorem SameBlocks.refl (s : State) : SameBlocks s s :=
  ⟨rfl, rfl, rfl, rfl, rfl, rfl, rfl, rfl, rfl, rfl, rfl, rfl, rfl, rfl, rfl, rfl, rfl, rfl⟩

theorem SameBlocks.trans {s t u : State} (h : SameBlocks s t) (k : SameBlocks t u) : SameBlocks s u where
  array := k.array.trans h.array
  powered := k.powered.trans h.powered
  rstLow := k.rstLow.trans h.rstLow
  pgmEn := k.pgmEn.trans h.pgmEn
  portCAdr := k.portCAdr.trans h.portCAdr
  device := k.device.trans h.device
  mount := k.mount.trans h.mount
  policy := k.policy.trans h.policy
  directory := k.directory.trans h.directory
  counters := k.counters.trans h.counters
  log := k.log.trans h.log
  repair := k.repair.trans h.repair
  engine := k.engine.trans h.engine
  jobs := k.jobs.trans h.jobs
  arbiter := k.arbiter.trans h.arbiter
  audit := k.audit.trans h.audit
  lastSelector := k.lastSelector.trans h.lastSelector
  pending := k.pending.trans h.pending

theorem sameBlocks_setPort (s : State) (p : Port) (q : PortState) : SameBlocks s (s.setPort p q) := by
  cases p <;> exact ⟨rfl, rfl, rfl, rfl, rfl, rfl, rfl, rfl, rfl, rfl, rfl, rfl, rfl, rfl, rfl, rfl, rfl, rfl⟩

/-! ### The line -/

theorem judgeLevel_eq (p : Port) (s : State) :
    judgeLevel p s = s.setPort p
      { s.port p with lineLow := if levelMode s p then workWaiting (s.port p) else (s.port p).lineLow } := by
  unfold judgeLevel
  split
  · rfl
  · exact (s.setPort_port p).symm

/-- The line and the pulse of a port after an arrival (R151, R152). -/
theorem arrivalLine_eq (p : Port) (enabled : Bool) (s : State) :
    arrivalLine p enabled s = s.setPort p
      { s.port p with
        lineLow :=
          if levelMode s p then workWaiting (s.port p) else (enabled || (s.port p).lineLow)
        pulseActive :=
          if levelMode s p then (s.port p).pulseActive else (enabled || (s.port p).pulseActive) } := by
  unfold arrivalLine judgeLevel startPulse
  cases levelMode s p <;> cases enabled <;> simp
  exact (s.setPort_port p).symm

theorem sameBlocks_arrivalLine (p : Port) (enabled : Bool) (s : State) :
    SameBlocks s (arrivalLine p enabled s) := by
  rw [arrivalLine_eq]; exact sameBlocks_setPort s p _

theorem port_arrivalLine_other {p r : Port} (h : r ≠ p) (enabled : Bool) (s : State) :
    (arrivalLine p enabled s).port r = s.port r := by
  rw [arrivalLine_eq]; exact s.port_setPort_other _ h

/-! ### Notices -/

theorem sameBlocks_arriveNotice (n : Notice) (p : Port) (s : State) : SameBlocks s (arriveNotice n p s) :=
  (sameBlocks_setPort s p _).trans (sameBlocks_arrivalLine p _ _)

theorem port_arriveNotice_other {p r : Port} (h : r ≠ p) (n : Notice) (s : State) :
    (arriveNotice n p s).port r = s.port r := by
  rw [arriveNotice, port_arrivalLine_other h, s.port_setPort_other _ h]

/-- The port a notice arrives at: its ring as R148 gives, its line as R151 and R152 give. -/
theorem port_arriveNotice_same (n : Notice) (p : Port) (s : State) :
    (arriveNotice n p s).port p =
      { pushRing (s.port p) n with
        lineLow :=
          if levelMode s p then workWaiting (pushRing (s.port p) n)
          else noticeEnabled (s.port p).mask n.kind || (s.port p).lineLow
        pulseActive :=
          if levelMode s p then (s.port p).pulseActive
          else noticeEnabled (s.port p).mask n.kind || (s.port p).pulseActive } := by
  have h : (pushRing (s.port p) n).lineLow = (s.port p).lineLow ∧
      (pushRing (s.port p) n).pulseActive = (s.port p).pulseActive := by
    unfold pushRing; split <;> exact ⟨rfl, rfl⟩
  simp [arriveNotice, arrivalLine_eq, h.1, h.2]

theorem arriveNotice_congr {n : Notice} {p : Port} {s t : State} (hport : t.port p = s.port p)
    (hpolicy : t.policy = s.policy) : (arriveNotice n p t).port p = (arriveNotice n p s).port p := by
  rw [port_arriveNotice_same, port_arriveNotice_same, hport, levelMode_congr hpolicy]

theorem sameBlocks_foldArrive (n : Notice) : ∀ (ps : List Port) (s : State),
    SameBlocks s (ps.foldl (fun t p => arriveNotice n p t) s)
  | [], s => SameBlocks.refl s
  | p :: ps, s => (sameBlocks_arriveNotice n p s).trans (sameBlocks_foldArrive n ps _)

theorem port_foldArrive (n : Notice) (r : Port) : ∀ (ps : List Port) (s : State), ps.Nodup →
    (ps.foldl (fun t p => arriveNotice n p t) s).port r =
      if r ∈ ps then (arriveNotice n r s).port r else s.port r
  | [], s, _ => by simp
  | p :: ps, s, h => by
    have hp := (List.nodup_cons.1 h).1
    rw [List.foldl_cons, port_foldArrive n r ps _ (List.nodup_cons.1 h).2]
    by_cases hr : r = p
    · subst hr; simp [hp]
    · by_cases hm : r ∈ ps
      · simp only [hm, if_true, List.mem_cons, or_true]
        exact arriveNotice_congr (port_arriveNotice_other hr n s) (sameBlocks_arriveNotice n p s).policy
      · simp [hm, hr, port_arriveNotice_other hr]

/-- A posting changes no block but the ports (R145). -/
theorem sameBlocks_postNotice (n : Notice) (s : State) : SameBlocks s (postNotice n s) :=
  sameBlocks_foldArrive n _ s

/-- A posting arrives at exactly the receiving ports (R146). -/
theorem port_postNotice (n : Notice) (s : State) (p : Port) :
    (postNotice n s).port p =
      if receivesNotice s n p then (arriveNotice n p s).port p else s.port p := by
  have h : (allPorts.filter (receivesNotice s n)).Nodup := List.Nodup.filter _ (by decide)
  rw [postNotice, port_foldArrive n p _ s h]
  have hp : p ∈ allPorts := by cases p <;> decide
  simp [List.mem_filter, hp]

/-! ### Results -/

/-- The end of a job or audit: what it leaves of its port (R37, R151, R152). -/
theorem port_deliverResult_same (p : Port) (orphan : Bool) (r : Result) (s : State) :
    ((deliverResult p orphan r s).port p).results =
        (if orphan then (s.port p).results else (s.port p).results ++ [r]) ∧
    ((deliverResult p orphan r s).port p).outstanding = (s.port p).outstanding - 1 ∧
    ((deliverResult p orphan r s).port p).slot = (s.port p).slot ∧
    ((deliverResult p orphan r s).port p).reply = (s.port p).reply ∧
    ((deliverResult p orphan r s).port p).ring = (s.port p).ring ∧
    ((deliverResult p orphan r s).port p).wrapped = (s.port p).wrapped ∧
    ((deliverResult p orphan r s).port p).subs = (s.port p).subs ∧
    ((deliverResult p orphan r s).port p).mask = (s.port p).mask := by
  cases orphan <;> simp [deliverResult, lowerOutstanding, appendResult, arrivalLine_eq]

theorem port_deliverResult_other {p q : Port} (h : q ≠ p) (orphan : Bool) (r : Result) (s : State) :
    (deliverResult p orphan r s).port q = s.port q := by
  cases orphan <;>
    simp [deliverResult, lowerOutstanding, appendResult, State.port_setPort_other, port_arrivalLine_other, h]

theorem sameBlocks_deliverResult (p : Port) (orphan : Bool) (r : Result) (s : State) :
    SameBlocks s (deliverResult p orphan r s) := by
  cases orphan
  · exact ((sameBlocks_setPort s p _).trans (sameBlocks_arrivalLine p _ _)).trans (sameBlocks_setPort _ p _)
  · exact sameBlocks_setPort s p _

/-! ### The end of a job -/

theorem sameBlocks_finishNotices (j : Job) (s : State) : SameBlocks s (finishNotices j s) := by
  unfold finishNotices
  split
  · split
    · exact sameBlocks_postNotice _ s
    · exact SameBlocks.refl s
  all_goals exact SameBlocks.refl s

/-- FINISHING of an active job: the engine rests, every block but the ports and the engine stays (R37). -/
theorem finish_frame {s : State} {j : Job} (h : s.engine.job = some j) (code : Code) (weak : Bool) :
    (finish code weak s).engine = Engine.resting ∧ (finish code weak s).array = s.array ∧
    (finish code weak s).log = s.log ∧ (finish code weak s).directory = s.directory ∧
    (finish code weak s).counters = s.counters ∧ (finish code weak s).policy = s.policy ∧
    (finish code weak s).repair = s.repair ∧ (finish code weak s).jobs = s.jobs ∧
    (finish code weak s).arbiter = s.arbiter ∧ (finish code weak s).audit = s.audit ∧
    (finish code weak s).mount = s.mount ∧ (finish code weak s).device = s.device ∧
    (finish code weak s).pgmEn = s.pgmEn ∧ (finish code weak s).pending = s.pending := by
  have k := (sameBlocks_finishNotices j s).trans
    (sameBlocks_deliverResult j.port j.orphan (jobResult s j code weak) (finishNotices j s))
  have e : finish code weak s =
      { deliverResult j.port j.orphan (jobResult s j code weak) (finishNotices j s) with
        engine := Engine.resting } := by simp only [finish, h]
  rw [e]
  exact ⟨rfl, k.array, k.log, k.directory, k.counters, k.policy, k.repair, k.jobs, k.arbiter, k.audit, k.mount,
    k.device, k.pgmEn, k.pending⟩

/-- A job abandoned at a low PGM_EN ends as a finished one does, PARTIAL for a counter that moved and else
PROTECTED (R35, R94). -/
theorem abandon_eq (s : State) :
    abandon s = finish .isProtected false s ∨ abandon s = finish .partialMove false s := by
  unfold abandon
  split
  · split
    · exact .inr rfl
    · exact .inl rfl
  all_goals exact .inl rfl

/-! ### Frames -/

/-- An answer changes its own port's slot and reply alone. -/
theorem port_answer (p : Port) (cmd tag : Byte) (code : Code) (body : List Byte) (s : State) (r : Port) :
    (answer p cmd tag code body s).port r =
      if r = p then { s.port p with slot := .replyReady, reply := some ⟨code, cmd, tag, body⟩ }
      else s.port r := s.port_setPort p r _

theorem sameBlocks_answer (p : Port) (cmd tag : Byte) (code : Code) (body : List Byte) (s : State) :
    SameBlocks s (answer p cmd tag code body s) := sameBlocks_setPort s p _

@[simp] theorem noteSendFrame_frame (p : Port) (s : State) :
    (noteSendFrame p s).array = s.array ∧ (noteSendFrame p s).powered = s.powered ∧
    (noteSendFrame p s).pgmEn = s.pgmEn ∧ (noteSendFrame p s).device = s.device ∧
    (noteSendFrame p s).mount = s.mount ∧ (noteSendFrame p s).policy = s.policy ∧
    (noteSendFrame p s).directory = s.directory ∧ (noteSendFrame p s).counters = s.counters ∧
    (noteSendFrame p s).log = s.log ∧ (noteSendFrame p s).repair = s.repair ∧
    (noteSendFrame p s).engine = s.engine ∧ (noteSendFrame p s).jobs = s.jobs ∧
    (noteSendFrame p s).arbiter = s.arbiter ∧ (noteSendFrame p s).audit = s.audit ∧
    (noteSendFrame p s).pending = s.pending := by
  cases p <;> exact ⟨rfl, rfl, rfl, rfl, rfl, rfl, rfl, rfl, rfl, rfl, rfl, rfl, rfl, rfl, rfl⟩

/-- A SEND-FRAME transaction empties the output of the SPI port it reaches and leaves every port otherwise
(R155). -/
theorem port_noteSendFrame (p r : Port) (s : State) :
    (noteSendFrame p s).port r =
      { s.port r with output := if r = p ∧ p ≠ .c then [] else (s.port r).output } := by
  cases p <;> cases r <;> rfl

/-- A frame the host builds has no form fault (R158, R173). -/
theorem frameFault_goodFrame (cmd : Command) (tag : Byte) (params : List Byte) (h : params.length ≤ 250) :
    frameFault (commandCode cmd) (goodFrame cmd tag params).tag (goodFrame cmd tag params).len
      (goodFrame cmd tag params).rest = false := by
  have hl : (BitVec.ofNat 8 params.length).toNat = params.length := by
    rw [BitVec.toNat_ofNat]; omega
  simp [frameFault, goodFrame, hl, h]

/-- A frame the host builds is complete (R157). -/
theorem frameIncomplete_goodFrame (cmd : Command) (tag : Byte) (params : List Byte) (h : params.length ≤ 250) :
    frameIncomplete (frameBytes (commandCode cmd) (goodFrame cmd tag params)) = false := by
  have hl : (BitVec.ofNat 8 params.length).toNat = params.length := by
    rw [BitVec.toNat_ofNat]; omega
  simp [frameIncomplete, frameBytes, goodFrame, hl]

end Sys2Proof.Machine
end

