-- ==== Sys2Proof/Laws/Frames.lean ====
section
/-! SUPPORT. What the end of a SEND-FRAME transaction comes to, by the frame's form and the slot's state;
and what an arrival leaves of its port, in the words of the statements. -/

namespace Sys2Proof.Machine

@[simp] theorem reachedPort_noteSendFrame (p : Port) (s : State) (bus : Bus) :
    reachedPort (noteSendFrame p s) bus = reachedPort s bus := by
  cases p <;> rfl

/-- A complete frame goes to the command slot (R157). -/
theorem receive_complete {code tag len : Byte} {rest : List Byte}
    (h : frameIncomplete (code :: tag :: len :: rest) = false) (p : Port) (s : State)
    (handler : Byte → Handler) :
    receive p (code :: tag :: len :: rest) handler s =
      takeComplete p code tag len rest (handler code) (noteSendFrame p s) := by
  simp [receive, h]

/-- A frame of good form at a slot that is not WORKING runs its command on the state with the unfetched reply
discarded (R158). -/
theorem takeComplete_good {s : State} {p : Port} (hs : slotFree (s.port p) = true) {code tag len : Byte}
    {rest : List Byte} (hf : frameFault code tag len rest = false) (handler : Handler) :
    takeComplete p code tag len rest handler s = handler p tag (rest.take len.toNat) (dropReply p s) := by
  unfold slotFree at hs
  cases hslot : (s.port p).slot with
  | empty => simp [takeComplete, takeComplete.judgeForm, hslot, hf]
  | replyReady => simp [takeComplete, takeComplete.judgeForm, hslot, hf]
  | working r => simp [hslot] at hs

/-- A frame the host builds for a command, at a port that takes it, runs its command (R158). -/
theorem sendCommand_taken {s : State} {bus : Bus} {p : Port} (h : Takes s bus p) (cmd : Command) (tag : Byte)
    (params : List Byte) (hp : params.length ≤ 250) (handler : Handler) :
    sendCommand cmd bus (goodFrame cmd tag params) handler s =
      handler p tag params (dropReply p (noteSendFrame p s)) := by
  have hl : (goodFrame cmd tag params).rest.take (goodFrame cmd tag params).len.toNat = params := by
    have : (BitVec.ofNat 8 params.length).toNat = params.length := by rw [BitVec.toNat_ofNat]; omega
    simp [goodFrame, this]
  have hs : slotFree ((noteSendFrame p s).port p) = true := by
    have h2 := h.2
    unfold slotFree at h2 ⊢
    simpa [port_noteSendFrame] using h2
  have hr : sendCommand cmd bus (goodFrame cmd tag params) handler s =
      receive p (frameBytes (commandCode cmd) (goodFrame cmd tag params)) (fun _ => handler) s := by
    simp [sendCommand, sendFrame, onBus, h.1]
  have hr2 := receive_complete (p := p) (s := s) (handler := fun _ => handler)
    (frameIncomplete_goodFrame cmd tag params hp)
  rw [hr, frameBytes, hr2, takeComplete_good hs (frameFault_goodFrame cmd tag params hp), hl]
  rfl

/-- A reply placed after the frame was taken is the answered state. -/
theorem answer_dropReply (s : State) (p : Port) (cmd tag : Byte) (code : Code) (body : List Byte) :
    answer p cmd tag code body (dropReply p (noteSendFrame p s)) = s.answered p cmd tag code body := by
  cases p <;> rfl

/-- A transaction that reaches no port changes nothing (R156). -/
theorem sendFrame_unreached {s : State} {bus : Bus} (h : reachedPort s bus = none) (bytes : List Byte)
    (handler : Byte → Handler) : sendFrame bus bytes handler s = s := by
  simp [sendFrame, onBus, h]

/-- An incomplete frame sets the truncated flag alone (R157). -/
theorem receive_incomplete {bytes : List Byte} (h : frameIncomplete bytes = true) (p : Port) (s : State)
    (handler : Byte → Handler) : receive p bytes handler s = setTruncated p (noteSendFrame p s) := by
  unfold receive
  split
  · rw [if_pos h]
  · rfl

/-- Every command code is read back as its command, and the twenty codes differ (Table 12-3). -/
theorem commandOf_commandCode (cmd : Command) : commandOf (commandCode cmd) = some cmd := by
  cases cmd <;> decide

/-- The port a notice arrives at, in the statements' word (R148, R151, R152). -/
theorem port_arriveNotice_noticed (n : Notice) (p : Port) (s : State) :
    (arriveNotice n p s).port p = noticed (alertLevel s p) n (s.port p) := by
  rcases n with ⟨kind, _, _, _⟩
  have hlevel : alertLevel s p = levelMode s p := rfl
  rw [port_arriveNotice_same, hlevel]
  cases levelMode s p <;> by_cases hfull : 16 ≤ (s.port p).ring.length <;> cases kind <;>
    simp [noticed, lineMoved, ringWith, pushRing, Config.ringMax, noticeEnabled, noticeEnableBit, hfull] <;>
    split <;> simp_all

/-- The port a job or audit ends at, in the statements' word (R37, R39, R151, R152). -/
theorem port_deliverResult_jobEnded (p : Port) (orphan : Bool) (r : Result) (s : State) :
    (deliverResult p orphan r s).port p = jobEnded (alertLevel s p) orphan r (s.port p) := by
  have hlevel : alertLevel s p = levelMode s p := rfl
  rw [hlevel]
  cases orphan <;> cases hl : levelMode s p <;>
    simp [deliverResult, lowerOutstanding, appendResult, arrivalLine_eq, jobEnded, lineMoved, hl,
      resultEnabled, resultEnableBit] <;>
    split <;> simp_all

end Sys2Proof.Machine
end

