-- ==== Sys2Proof/Laws/Memory.lean ====
section
/-! SUPPORT. The array: read after write, the canonical form kept by every write, and law L1 for one pulse. -/

namespace Sys2Proof.Machine

/-- Every index listed in `m` is at or above `lo`, and the indices rise strictly. -/
def sortedFrom (lo : Nat) : Memory → Prop
  | [] => True
  | e :: rest => lo ≤ e.1 ∧ sortedFrom (e.1 + 1) rest

theorem sortedFrom_mono {lo lo' : Nat} (h : lo' ≤ lo) : ∀ {m : Memory}, sortedFrom lo m → sortedFrom lo' m
  | [], _ => trivial
  | _ :: _, hm => ⟨Nat.le_trans h hm.1, hm.2⟩

theorem pairwise_iff_sortedFrom : ∀ m : Memory,
    m.Pairwise (fun x y => x.1 < y.1) ↔ sortedFrom 0 m
  | [] => by simp [sortedFrom]
  | e :: rest => by
    have aux : ∀ (lo : Nat) (r : Memory),
        sortedFrom lo r ↔ (∀ x ∈ r, lo ≤ x.1) ∧ r.Pairwise (fun x y => x.1 < y.1) := by
      intro lo r
      induction r generalizing lo with
      | nil => simp [sortedFrom]
      | cons x xs ih =>
        simp only [sortedFrom, ih, List.pairwise_cons, List.mem_cons, forall_eq_or_imp]
        constructor
        · rintro ⟨h1, h2, h3⟩
          exact ⟨⟨h1, fun y hy => Nat.le_trans h1 (Nat.le_of_succ_le (h2 y hy))⟩, h2, h3⟩
        · rintro ⟨⟨h1, _⟩, h2, h3⟩
          exact ⟨h1, h2, h3⟩
    exact ⟨fun h => (aux 0 _).2 ⟨fun _ _ => Nat.zero_le _, h⟩, fun h => ((aux 0 _).1 h).2⟩

@[simp] theorem cellsAt_nil (i : Nat) : cellsAt [] i = Cells.erased := rfl

theorem cellsAt_cons (e : Nat × Cells) (m : Memory) (i : Nat) :
    cellsAt (e :: m) i = if e.1 = i then e.2 else cellsAt m i := by
  by_cases h : e.1 = i <;> simp [cellsAt, h]

/-- Below every listed index a word is ERASED. -/
theorem cellsAt_of_lt {lo i : Nat} (h : i < lo) : ∀ {m : Memory}, sortedFrom lo m → cellsAt m i = Cells.erased
  | [], _ => rfl
  | e :: rest, hm => by
    have := hm.1
    rw [cellsAt_cons, if_neg (by omega)]
    exact cellsAt_of_lt (by omega) hm.2

/-- A write keeps the order of the indices. -/
theorem sortedFrom_writeCells {lo i : Nat} (c : Cells) (hi : lo ≤ i) :
    ∀ {m : Memory}, sortedFrom lo m → sortedFrom lo (writeCells m i c)
  | [], _ => by
    unfold writeCells
    split
    · trivial
    · exact ⟨hi, trivial⟩
  | e :: rest, hm => by
    unfold writeCells
    have h1 := hm.1
    split
    · split
      · exact hm
      · exact ⟨hi, by omega, hm.2⟩
    · split
      · split
        · exact sortedFrom_mono (by omega) hm.2
        · subst i; exact ⟨hi, hm.2⟩
      · exact ⟨h1, sortedFrom_writeCells c (by omega) hm.2⟩

/-- Read after write: the written word reads as written, every other word as before. -/
theorem cellsAt_writeCells_of_sorted {lo i : Nat} (c : Cells) (j : Nat) :
    ∀ {m : Memory}, sortedFrom lo m → cellsAt (writeCells m i c) j = if j = i then c else cellsAt m j
  | [], _ => by
    unfold writeCells
    by_cases hc : c = Cells.erased
    · simp [hc]
    · simp [hc, cellsAt_cons, eq_comm]
  | e :: rest, hm => by
    unfold writeCells
    by_cases h1 : i < e.1
    · have hlow : cellsAt rest i = Cells.erased := cellsAt_of_lt (by omega) hm.2
      by_cases hc : c = Cells.erased
      · by_cases hj : j = i
        · subst hj
          simp [h1, hc, cellsAt_cons, hlow, show e.1 ≠ j by omega]
        · simp [h1, hc, hj]
      · by_cases hj : j = i
        · simp [h1, hc, hj, cellsAt_cons]
        · simp [h1, hc, hj, cellsAt_cons, show i ≠ j from fun h => hj h.symm]
    · by_cases h2 : i = e.1
      · subst h2
        have hlow : cellsAt rest e.1 = Cells.erased := cellsAt_of_lt (by omega) hm.2
        by_cases hc : c = Cells.erased
        · by_cases hj : j = e.1
          · simp [hc, hj, hlow]
          · simp [hc, hj, cellsAt_cons, show e.1 ≠ j from fun h => hj h.symm]
        · by_cases hj : j = e.1
          · simp [hc, hj, cellsAt_cons]
          · simp [hc, hj, cellsAt_cons, show e.1 ≠ j from fun h => hj h.symm]
      · rw [if_neg h1, if_neg h2, cellsAt_cons, cellsAt_cons, cellsAt_writeCells_of_sorted c j hm.2]
        by_cases hj : j = i
        · subst hj; simp [show e.1 ≠ j from fun h => h2 h.symm]
        · simp [hj]

/-- What the canonical form says. -/
theorem Memory.wf_iff (m : Memory) :
    Memory.wf m = true ↔ sortedFrom 0 m ∧
      ∀ e ∈ m, e.1 < 16384 ∧ e.2 ≠ Cells.erased ∧ e.2.weak &&& e.2.sound = 0#32 := by
  simp [Memory.wf, pairwise_iff_sortedFrom, Config.arrayWords, and_assoc]

/-- Read after write on a canonical array (R2). -/
theorem cellsAt_writeCells {m : Memory} (h : Memory.wf m = true) (i : Nat) (c : Cells) (j : Nat) :
    cellsAt (writeCells m i c) j = if j = i then c else cellsAt m j :=
  cellsAt_writeCells_of_sorted c j ((Memory.wf_iff m).1 h).1

theorem mem_writeCells {c : Cells} {i : Nat} : ∀ {m : Memory} {e : Nat × Cells},
    e ∈ writeCells m i c → e ∈ m ∨ (e = (i, c) ∧ c ≠ Cells.erased)
  | [], e, h => by
    unfold writeCells at h
    split at h
    · simp at h
    · next hc => exact .inr ⟨by simpa using h, hc⟩
  | x :: rest, e, h => by
    unfold writeCells at h
    split at h
    · split at h
      · exact .inl h
      · next hc => rcases List.mem_cons.1 h with h | h
                   · exact .inr ⟨h, hc⟩
                   · exact .inl h
    · split at h
      · split at h
        · exact .inl (List.mem_cons_of_mem _ h)
        · next hc => rcases List.mem_cons.1 h with h | h
                     · exact .inr ⟨h, hc⟩
                     · exact .inl (List.mem_cons_of_mem _ h)
      · rcases List.mem_cons.1 h with h | h
        · exact .inl (by simp [h])
        · rcases mem_writeCells h with h | h
          · exact .inl (List.mem_cons_of_mem _ h)
          · exact .inr h

/-- A write to a word of the array of cells that are each in one state keeps the canonical form. -/
theorem Memory.wf_writeCells {m : Memory} (h : Memory.wf m = true) {i : Nat} (hi : i < 16384) {c : Cells}
    (hc : c.weak &&& c.sound = 0#32) : Memory.wf (writeCells m i c) = true := by
  rw [Memory.wf_iff] at h ⊢
  refine ⟨sortedFrom_writeCells c (Nat.zero_le _) h.1, fun e he => ?_⟩
  rcases mem_writeCells he with he | ⟨rfl, hne⟩
  · exact h.2 e he
  · exact ⟨hi, hne, hc⟩

/-- After a pulse each cell is again in exactly one state (R1, R2). -/
theorem pulseCells_disjoint (c : Cells) (mask : Word) (e : PulseEffect) :
    (pulseCells c mask e).weak &&& (pulseCells c mask e).sound = 0#32 := by
  apply BitVec.eq_of_getLsbD_eq
  intro i hi
  simp only [pulseCells, BitVec.getLsbD_and, BitVec.getLsbD_or, BitVec.getLsbD_not, hi,
    decide_true, Bool.true_and, BitVec.getLsbD_zero]
  cases c.weak.getLsbD i <;> cases c.sound.getLsbD i <;> cases mask.getLsbD i <;>
    cases e.weak.getLsbD i <;> cases e.sound.getLsbD i <;> rfl

/-- A pulse on a word of the array keeps the canonical form. -/
theorem Memory.wf_pulseWord {m : Memory} (h : Memory.wf m = true) {i : Nat} (hi : i < 16384) (mask : Word)
    (e : PulseEffect) : Memory.wf (pulseWord m i mask e) = true :=
  Memory.wf_writeCells h hi (pulseCells_disjoint _ _ _)

/-- A pulse changes its own word alone (R2). -/
theorem cellsAt_pulseWord {m : Memory} (h : Memory.wf m = true) (i : Nat) (mask : Word) (e : PulseEffect)
    (j : Nat) :
    cellsAt (pulseWord m i mask e) j = if j = i then pulseCells (cellsAt m i) mask e else cellsAt m j :=
  cellsAt_writeCells h i _ j

/-- No pulsed word reads fewer cells set, at either level (law L1). -/
theorem pulseCells_rise (c : Cells) (mask : Word) (e : PulseEffect) :
    normalOf c &&& ~~~ normalOf (pulseCells c mask e) = 0#32 ∧
    marginOf c &&& ~~~ marginOf (pulseCells c mask e) = 0#32 := by
  constructor <;>
  · apply BitVec.eq_of_getLsbD_eq
    intro i hi
    simp only [pulseCells, normalOf, marginOf, BitVec.getLsbD_and, BitVec.getLsbD_or, BitVec.getLsbD_not, hi,
      decide_true, Bool.true_and, BitVec.getLsbD_zero]
    cases c.weak.getLsbD i <;> cases c.sound.getLsbD i <;> cases mask.getLsbD i <;>
      cases e.weak.getLsbD i <;> cases e.sound.getLsbD i <;> rfl

/-- The array of the reset state is canonical. -/
theorem reset_array_wf : Memory.wf State.reset.array = true := rfl

end Sys2Proof.Machine
end

