-- ==== Sys2Proof/Tests/Slice0.lean ====
section
/-! SUPPORT. Tests of single steps against the spec's own numbers, the smoke tests of `Instr.wellFormed`, and a
witness for the hypotheses of each statement. -/

namespace Sys2Proof.Tests

open Sys2Proof Sys2Proof.Machine

set_option Elab.async false

/-! ### Helpers -/

/-- The outcome is a next state that satisfies `f`. -/
def nextIs (o : Host.Outcome State Fault Refusal) (f : State → Bool) : Bool :=
  match o with
  | .next t => f t
  | .fault _ => false
  | .refused _ => false

/-- The ASCII text "123456789" (R173). -/
def digits : List Byte := [0x31#8, 0x32#8, 0x33#8, 0x34#8, 0x35#8, 0x36#8, 0x37#8, 0x38#8, 0x39#8]

/-- A READY part with an empty array, PGM_EN high, nothing waiting. -/
def ready : State :=
  { State.reset with
    rstLow := false, pgmEn := true, device := .ready
    mount := { State.reset.mount with phase := .ready }
    policy := List.replicate 38 0#32
    counters := (List.range 16).map noStripEntry }

/-- A MOUNTING part in phase `ph`, RST high, with array `m`. -/
def mounting (ph : MountPhase) (m : Memory) : State :=
  { State.reset with array := m, rstLow := false, mount := { State.reset.mount with phase := ph } }

/-- The pulse that makes every cell SOUND. -/
def whole : PulseEffect := ⟨BitVec.allOnes 32, 0#32⟩

/-- A directory entry of key 513, group 2. -/
def entry513 : DirEntry := ⟨513, .live, 4134, 2, 2, 1, .b⟩

/-- `ready` with the entry of key 513 and with `marks` in force in word `w` of the policy copy. -/
def withMarks (w : Nat) (marks : Word) : State :=
  { ready with directory := [entry513], policy := ready.policy.set w marks }

/-- A job of port B. -/
def jobB (k : JobKind) : Job := ⟨k, .b, 0x11#8, false⟩

/-- `ready` with job `k` of port B at the head of the queue and counted. -/
def queued (k : JobKind) : State :=
  { ready with jobs := [jobB k], portB := { PortState.reset with outstanding := 1 } }

/-- A span of one payload word at 4141. -/
def span1 : Span := ⟨4141, 1, 0, 2, encodeHeader ⟨513, 1, 0, .data, .b⟩, [0x04030201#32], 0x5A5A5A5A#32⟩

/-- The engine programming word `next` of an APPEND of key 513 by port B, `pulses` used, its target in `q`. -/
def programming (next : RecordWord) (q : Sequence) : State :=
  { ready with
    directory := [entry513]
    log := ⟨4147, 3, 0⟩
    engine := ⟨.programming, some (jobB (.append 513 none [1#8, 2#8, 3#8, 4#8])), none,
      .record ⟨1, some span1, next, none⟩, some q⟩
    arbiter := { ready.arbiter with holder := .engine }
    portB := { PortState.reset with outstanding := 1 } }

/-- The engine with job `k` of port B, work `w` and no sequence. -/
def working (k : JobKind) (w : Work) : State :=
  { ready with
    directory := [entry513]
    engine := ⟨.programming, some (jobB k), none, w, none⟩
    portB := { PortState.reset with outstanding := 1 } }

/-- An outcome of class `cls` with normal-level value `v`. -/
def outcome (cls : OutcomeClass) (v : Word) : SeqOutcome := ⟨4141, cls, 1, v, v⟩

/-! ### Formats (R172, R173, R175) -/

theorem test_crc32_digits : crc32 digits = 0xCBF43926#32 := by decide +kernel

theorem test_crc8_digits : crc8 digits = 0xF4#8 := by decide +kernel

theorem test_guard_tombstone_key1 : (encodeHeader ⟨1, 0, 0, .tombstone, .a⟩).extractLsb' 24 5 = 22#5 := by decide

theorem test_guard_claim0 : (encodeClaim 0).extractLsb' 4 3 = 4#3 := by decide

theorem test_header_kind11_invalid : decodeHeader (withGuard24 0x300001#24) = none := by decide

theorem test_header_key4095_invalid : decodeHeader (withGuard24 0x100FFF#24) = none := by decide

theorem test_header_w0_pad1_invalid : decodeHeader (withGuard24 0x140001#24) = none := by decide

theorem test_strip7_base_word : stripWord 7 0 = 94 ∧ stripWord 40 0 = 358 ∧ thermometerWord 7 186 = 101 := by decide

theorem test_none_item_length : noneBytes.length = 5 := by decide

theorem test_ready_status_body_length : (statusBody ready).length = 57 := by decide +kernel

theorem test_table_gives_no_words : decodeTableWord 8 0x2A = none := rfl

/-! ### Well-formed commands -/

theorem test_wf_complete_frame : (Instr.append .spiA ⟨1#8, 0#8, [0x5A#8]⟩).wellFormed = true := by decide

theorem test_wf_refuses_short_read : (Instr.read .spiA ⟨1#8, 2#8, [1#8, 0#8]⟩).wellFormed = false := by decide

theorem test_wf_refuses_short_info : (Instr.info .spiA ⟨1#8, 2#8, []⟩).wellFormed = false := by decide

theorem test_wf_refuses_short_list : (Instr.list .spiA ⟨1#8, 2#8, []⟩).wellFormed = false := by decide

theorem test_wf_refuses_short_count_read : (Instr.countRead .spiA ⟨1#8, 1#8, []⟩).wellFormed = false := by decide

theorem test_wf_refuses_short_policy_read : (Instr.policyRead .spiA ⟨1#8, 1#8, []⟩).wellFormed = false := by decide

theorem test_wf_refuses_short_status : (Instr.status .spiB ⟨1#8, 0#8, []⟩).wellFormed = false := by decide

theorem test_wf_refuses_short_identify : (Instr.identify .spiB ⟨1#8, 0#8, []⟩).wellFormed = false := by decide

theorem test_wf_refuses_short_audit_report : (Instr.auditReport .spiB ⟨1#8, 0#8, []⟩).wellFormed = false := by decide

theorem test_wf_refuses_short_subscribe : (Instr.subscribe .spiB ⟨1#8, 3#8, []⟩).wellFormed = false := by decide

theorem test_wf_refuses_short_unsubscribe : (Instr.unsubscribe .spiB ⟨1#8, 3#8, []⟩).wellFormed = false := by decide

theorem test_wf_refuses_short_mask : (Instr.setAlertMask .spiB ⟨1#8, 1#8, []⟩).wellFormed = false := by decide

theorem test_wf_refuses_short_port_reset : (Instr.portReset .spiB ⟨1#8, 0#8, []⟩).wellFormed = false := by decide

theorem test_wf_refuses_short_append : (Instr.append .spiA ⟨1#8, 7#8, [0#8]⟩).wellFormed = false := by decide

theorem test_wf_refuses_short_delete : (Instr.delete .spiA ⟨1#8, 7#8, [0#8]⟩).wellFormed = false := by decide

theorem test_wf_refuses_short_advance : (Instr.countAdvance .spiA ⟨1#8, 3#8, []⟩).wellFormed = false := by decide

theorem test_wf_refuses_short_raise : (Instr.countRaise .spiA ⟨1#8, 4#8, []⟩).wellFormed = false := by decide

theorem test_wf_refuses_short_restrict : (Instr.restrict .spiA ⟨1#8, 2#8, []⟩).wellFormed = false := by decide

theorem test_wf_refuses_short_set_option : (Instr.setOption .spiA ⟨1#8, 1#8, []⟩).wellFormed = false := by decide

theorem test_wf_refuses_short_close : (Instr.close .spiA ⟨1#8, 0#8, []⟩).wellFormed = false := by decide

theorem test_wf_refuses_short_audit : (Instr.audit .spiA ⟨1#8, 1#8, [1#8]⟩).wellFormed = false := by decide

theorem test_wf_refuses_known_code : (Instr.unknownCommand .spiA 0x20#8 ⟨1#8, 0#8, [0#8]⟩).wellFormed = false := by
  decide

theorem test_wf_refuses_short_unknown : (Instr.unknownCommand .spiA 0x7F#8 ⟨1#8, 0#8, []⟩).wellFormed = false := by
  decide

theorem test_wf_refuses_complete_incomplete :
    (Instr.incompleteFrame .spiA [0x06#8, 1#8, 0#8, 0#8]).wellFormed = false := by decide

theorem test_wf_refuses_incomplete_discard : (Instr.frameDiscard .spiA [0x06#8, 1#8]).wellFormed = false := by decide

theorem test_wf_refuses_empty_selector : (Instr.lastSelectorWrite 0x58#7 []).wellFormed = false := by decide

theorem test_wf_refuses_frame_selector : (Instr.lastSelectorWrite 0x58#7 [0x01#8]).wellFormed = false := by decide

theorem test_wf_refuses_unknown_selector : (Instr.lastSelectorWrite 0x58#7 [0x06#8]).wellFormed = false := by decide

/-! ### One step of each command -/

theorem test_rst_release_samples_address :
    nextIs (exec (.rstRelease 0b10#2) State.reset) (fun t => portCAddress t == 0b1011010#7 && !t.rstLow) = true := by
  decide

theorem test_reset_keeps_array_and_empties_queue :
    nextIs (exec (.deviceReset whole) { queued .close with array := [(5, ⟨0#32, 1#32⟩)] })
      (fun t => t.array == [(5, ⟨0#32, 1#32⟩)] && t.jobs == [] && t.portB.outstanding == 0) = true := by
  decide +kernel

theorem test_power_loss_silences_ports :
    nextIs (exec (.powerLoss whole) ready) (fun t => reachedPort t .spiA == none) = true := by decide +kernel

theorem test_mount_options_reads_closed :
    nextIs (exec .mountOptions (mounting .options [(0, ⟨4#32, 0#32⟩)]))
      (fun t => isClosed t && t.mount.phase == .strips) = true := by decide +kernel

theorem test_mount_sort_posts_mount_done :
    nextIs (exec .mountSort (mounting .sort []))
      (fun t => t.portC.ring == [⟨.mountDone, 0, 0#32, none⟩] && t.portC.lineLow && t.device == .ready) = true := by
  decide +kernel

theorem test_pgm_fall_cuts_once :
    nextIs (exec (.pgmEnFall ⟨1#32, 0#32⟩) (programming .header ⟨4141, 3#32, 0, 0#32, false⟩))
      (fun t => readMargin t.array 4141 == 1#32 &&
        nextIs (exec (.pulseDone whole) t) (fun u => readNormal u.array 4141 == 1#32)) = true := by decide +kernel

theorem test_incomplete_frame_sets_truncated :
    nextIs (exec (.incompleteFrame .spiA [0x06#8]) ready) (fun t => t.portA.truncated && t.portA.slot == .empty) =
      true := by decide

theorem test_unknown_command_bad_request :
    nextIs (exec (.unknownCommand .spiA 0x7F#8 ⟨9#8, 0#8, [crc8 [0x7F#8, 9#8, 0#8]]⟩) ready)
      (fun t => t.portA.reply == some ⟨.badRequest, 0x7F#8, 9#8, []⟩) = true := by decide +kernel

theorem test_read_waits :
    nextIs (exec (.read .spiA (goodFrame .read 9#8 [0x01#8, 0x02#8])) ready)
      (fun t => t.portA.slot == .working ⟨9#8, 513⟩ && t.arbiter.claims.readerA) = true := by decide +kernel

theorem test_info_denied_by_own_mark :
    nextIs (exec (.info .spiB (goodFrame .info 9#8 [0x01#8, 0x02#8])) (withMarks 4 2#32))
      (fun t => t.portB.reply == some ⟨.denied, 0x02#8, 9#8, []⟩) = true := by decide +kernel

theorem test_list_skips_denied :
    nextIs (exec (.list .spiB (goodFrame .list 9#8 [0x01#8, 0x00#8])) (withMarks 4 2#32))
      (fun t => t.portB.reply == some ⟨.ok, 0x03#8, 9#8, [0#8, 0#8]⟩) = true := by decide +kernel

theorem test_count_read_room_with_no_strip :
    nextIs (exec (.countRead .spiA (goodFrame .countRead 9#8 [3#8])) ready)
      (fun t => t.portA.reply == some ⟨.ok, 0x04#8, 9#8, [3#8, 0#8, 0#8, 0#8, 0#8]⟩) = true := by decide +kernel

theorem test_policy_read_reports_marks :
    nextIs (exec (.policyRead .spiA (goodFrame .policyRead 9#8 [5#8])) (withMarks 7 0x42#32))
      (fun t => t.portA.reply == some ⟨.ok, 0x05#8, 9#8, [5#8, 0x42#8, 0#8, 0#8]⟩) = true := by decide +kernel

theorem test_status_while_mounting :
    nextIs (exec (.status .spiA (goodFrame .status 9#8 [])) (mounting .records []))
      (fun t => t.portA.reply == some ⟨.ok, 0x06#8, 9#8, [0#8, 2#8]⟩) = true := by decide +kernel

theorem test_identify_while_mounting :
    nextIs (exec (.identify .spiA (goodFrame .identify 9#8 [])) (mounting .records []))
      (fun t => t.portA.reply == some ⟨.mounting, 0x07#8, 9#8, []⟩) = true := by decide +kernel

theorem test_audit_report_idle :
    nextIs (exec (.auditReport .spiA (goodFrame .auditReport 9#8 [])) ready)
      (fun t => t.portA.reply == some ⟨.ok, 0x08#8, 9#8, [0#8, 0#8, 0#8, 0#8]⟩) = true := by decide +kernel

theorem test_subscribe_adds :
    nextIs (exec (.subscribe .spiA (goodFrame .subscribe 9#8 [1#8, 15#8, 0#8])) ready)
      (fun t => t.portA.subs == [⟨.counter, 15⟩]) = true := by decide +kernel

theorem test_unsubscribe_not_found :
    nextIs (exec (.unsubscribe .spiA (goodFrame .unsubscribe 9#8 [1#8, 15#8, 0#8])) ready)
      (fun t => t.portA.reply == some ⟨.notFound, 0x0A#8, 9#8, []⟩) = true := by decide +kernel

theorem test_alert_mask_bit6_refused :
    nextIs (exec (.setAlertMask .spiA (goodFrame .setAlertMask 9#8 [0x40#8])) ready)
      (fun t => t.portA.reply == some ⟨.badRequest, 0x0B#8, 9#8, []⟩ && t.portA.mask == 0x3F#6) = true := by
  decide +kernel

theorem test_port_reset_orphans_and_keeps_count :
    nextIs (exec (.portReset .spiB (goodFrame .portReset 9#8 [])) (queued .close))
      (fun t => t.jobs.map (fun j => j.orphan) == [true] && t.portB.outstanding == 1) = true := by decide +kernel

theorem test_append_accepted :
    nextIs (exec (.append .spiA (goodFrame .append 17#8 [1#8, 2#8, 1#8, 1#8, 0#8, 0#8, 0#8, 0xAA#8])) ready)
      (fun t => t.jobs == [⟨.append 513 (some 1) [0xAA#8], .a, 17#8, false⟩] && t.portA.outstanding == 1) = true := by
  decide +kernel

theorem test_delete_frozen :
    nextIs (exec (.delete .spiA (goodFrame .delete 17#8 [1#8, 2#8, 0#8, 9#8, 9#8, 9#8, 9#8])) (withMarks 4 0x40#32))
      (fun t => t.portA.reply == some ⟨.frozen, 0x21#8, 17#8, []⟩ && t.jobs == []) = true := by decide +kernel

theorem test_count_advance_zero_refused :
    nextIs (exec (.countAdvance .spiA (goodFrame .countAdvance 17#8 [0#8, 0#8, 0#8])) ready)
      (fun t => t.portA.reply == some ⟨.badRequest, 0x22#8, 17#8, []⟩) = true := by decide +kernel

theorem test_count_raise_read_only_port :
    nextIs (exec (.countRaise (.i2c 0x58#7) (goodFrame .countRaise 17#8 [0#8, 0#8, 0#8, 0#8])) (withMarks 1 8#32))
      (fun t => t.portC.reply == some ⟨.denied, 0x23#8, 17#8, []⟩ && t.lastSelector == .sendFrame) = true := by
  decide +kernel

theorem test_restrict_other_port_locked :
    nextIs (exec (.restrict (.i2c 0x58#7) (goodFrame .restrict 17#8 [2#8, 0x08#8])) (withMarks 0 1#32))
      (fun t => t.portC.reply == some ⟨.locked, 0x24#8, 17#8, []⟩) = true := by decide +kernel

theorem test_set_option_locked_when_closed :
    nextIs (exec (.setOption .spiA (goodFrame .setOption 17#8 [0x10#8])) (withMarks 0 1#32))
      (fun t => t.portA.reply == some ⟨.locked, 0x25#8, 17#8, []⟩) = true := by decide +kernel

theorem test_close_quota :
    nextIs (exec (.close .spiB (goodFrame .close 17#8 []))
        { ready with portB := { PortState.reset with outstanding := 3 } })
      (fun t => t.portB.reply == some ⟨.quota, 0x26#8, 17#8, []⟩) = true := by decide +kernel

theorem test_audit_of_empty_part_completes :
    nextIs (exec (.audit .spiA (goodFrame .audit 3#8 [1#8])) ready)
      (fun t => t.portA.results == [⟨.ok, 3#8, .audit, .audit 0 0 0⟩] && t.portA.outstanding == 0) = true := by
  decide +kernel

theorem test_fetch_reply_once :
    nextIs (exec (.fetchReply .spiA)
        { ready with portA := { PortState.reset with slot := .replyReady, reply := some ⟨.ok, 9#8, 7#8, []⟩ } })
      (fun t => t.portA.output == [0#8, 9#8, 7#8, 0#8, crc8 [0#8, 9#8, 7#8, 0#8]] && t.portA.slot == .empty) =
      true := by decide +kernel

theorem test_fetch_result_none :
    nextIs (exec (.fetchResult .spiA) ready)
      (fun t => t.portA.output == [0x15#8, 0#8, 0#8, 0#8, crc8 [0x15#8, 0#8, 0#8, 0#8]]) = true := by decide +kernel

theorem test_fetch_notice_clears_wrapped :
    nextIs (exec (.fetchNotice .spiA)
        { ready with portA := { PortState.reset with ring := [⟨.policyChanged, 7, 2#32, some .b⟩], wrapped := true } })
      (fun t => t.portA.output.take 9 == [0x43#8, 1#8, 7#8, 0#8, 2#8, 0#8, 0#8, 0#8, 1#8] && !t.portA.wrapped) =
      true := by decide +kernel

theorem test_port_status_byte :
    nextIs (exec (.portStatus .spiA) { ready with portA := { PortState.reset with discard := true } })
      (fun t => t.portA.output.take 1 == [0xA0#8] && !t.portA.discard) = true := by decide +kernel

theorem test_last_selector_rules_port_c :
    nextIs (exec (.lastSelectorWrite 0x58#7 [0x03#8, 0x77#8]) ready)
      (fun t => nextIs (exec (.fetchReply (.i2c 0x58#7)) t)
        (fun u => u.lastSelector == .fetchResult && u.portC.output == noneBytes)) = true := by decide +kernel

theorem test_take_append_allocates :
    nextIs (exec .engineTakeJob { queued (.append 1200 none [1#8, 2#8, 3#8, 4#8]) with log := ⟨4148, 3, 0⟩ })
      (fun t => t.log == ⟨4154, 4, 0⟩ && t.engine.state == .waiting && t.jobs == []) = true := by decide +kernel

theorem test_take_job_write_protected :
    nextIs (exec .engineTakeJob { queued (.countAdvance 2 5) with pgmEn := false })
      (fun t => t.portB.results == [⟨.isProtected, 0x11#8, .countAdvance, .job 0 0 false 0⟩] &&
        t.portB.outstanding == 0 && t.engine == Engine.resting) = true := by decide +kernel

theorem test_take_repair :
    nextIs (exec .engineTakeRepair { ready with repair := ⟨[⟨.retire, 4139⟩], 0, 0⟩ })
      (fun t => t.engine.seq == some ⟨4139, BitVec.allOnes 32, 0, 0#32, false⟩ && t.arbiter.claims.engine) = true := by
  decide +kernel

theorem test_grant_alternates_and_rotates :
    nextIs (exec .arrayGrant
        { ready with
          arbiter := ⟨.none, ⟨true, true, false, true, true⟩, .engine, .a, none⟩
          portC := { PortState.reset with slot := .working ⟨1#8, 9⟩ } })
      (fun t => t.arbiter.lastServed == .c && t.portC.reply == some ⟨.notFound, 0x01#8, 1#8, []⟩) = true := by
  decide +kernel

theorem test_audit_waits_for_others :
    nextIs (exec .arrayGrant { ready with arbiter := ⟨.none, ⟨false, false, false, false, true⟩, .reader, .b, none⟩ })
      (fun t => t.arbiter.holder == .audit && t.arbiter.lastClass == .reader) = true := by decide

theorem test_header_failed_sets_append_point :
    nextIs (exec (.pulseDone ⟨1#32, 0#32⟩)
        { programming .header ⟨4141, 0xFFFFFFFF#32, 5, 0#32, false⟩ with pgmEn := true })
      (fun t => t.log.appendPoint == 4142 + 6 && t.engine.seq.map (fun q => q.word) == some 4142) = true := by
  decide +kernel

theorem test_commit_then_retire :
    nextIs (exec (.pulseDone whole) (programming .commit ⟨4145, 0xFFFFFFFF#32, 0, 0#32, false⟩))
      (fun t => dirFind t.directory 513 == some ⟨513, .live, 4141, 1, 0, 2, .b⟩ &&
        t.engine.seq.map (fun q => q.word) == some 4140) = true := by decide +kernel

theorem test_alert_pulse_end_releases :
    nextIs (exec (.alertPulseEnd .b)
        { ready with portB := { PortState.reset with pulseActive := true, lineLow := true } })
      (fun t => !t.portB.lineLow && !t.portB.pulseActive) = true := by decide

theorem test_read_burst_end_drops_pad :
    nextIs (exec .readBurstEnd
        { ready with
          array := [(4136, ⟨0#32, 0x04030201#32⟩), (4137, ⟨0x0605#32, 0#32⟩)]
          arbiter := { ready.arbiter with holder := .reader .a entry513 }
          portA := { PortState.reset with slot := .working ⟨9#8, 513⟩ } })
      (fun t => t.portA.reply == some ⟨.data, 0x01#8, 9#8,
        [1#8, 2#8, 1#8, 0#8, 0#8, 0#8, 1#8, 6#8, 1#8, 2#8, 3#8, 4#8, 5#8, 6#8]⟩) = true := by decide +kernel

theorem test_audit_finds_weak_strip_word :
    nextIs (exec .auditUnitEnd
        { ready with
          array := [(38, ⟨0#32, encodeBase 10⟩), (39, ⟨0#32, encodeClaim 1⟩), (40, ⟨4#32, 3#32⟩)]
          arbiter := { ready.arbiter with holder := .audit }
          audit := ⟨true, some (.c, 3#8), true, false, some 4134, some 1, .strips, 0, [], 0, 0, 0⟩
          portC := { PortState.reset with outstanding := 1 } })
      (fun t => t.portC.results == [⟨.ok, 3#8, .audit, .audit 1 1 0⟩] &&
        t.repair.entries == [⟨.touchUp, 40⟩]) = true := by decide +kernel

theorem test_frame_discard_keeps_read :
    nextIs (exec (.frameDiscard .spiA [0x0C#8, 1#8, 0#8, 0#8])
        { ready with portA := { PortState.reset with slot := .working ⟨1#8, 9⟩ } })
      (fun t => t.portA.discard && t.portA.slot == .working ⟨1#8, 9⟩) = true := by decide

theorem test_first_claim_is_granted_first :
    nextIs (exec (.read .spiA (goodFrame .read 1#8 [9#8, 0#8])) (queued .close)) (fun t =>
      nextIs (exec .engineTakeJob t) (fun u =>
        nextIs (exec .arrayGrant u) (fun v =>
          v.portA.reply == some ⟨.notFound, 0x01#8, 1#8, []⟩ && v.arbiter.claims.engine))) = true := by
  decide +kernel

theorem test_send_frame_shifts_out_ff :
    nextIs (exec (.status .spiA (goodFrame .status 1#8 []))
        { ready with portA := { PortState.reset with output := [0x14#8] } })
      (fun t => outputByte t.portA 0 == 0xFF#8) = true := by decide +kernel

/-! ### Witnesses: for each statement, states and operands that meet its hypotheses, clause by clause -/

/-- A state that meets the invariant, its engine PROGRAMMING, the end of the pulse waiting. -/
def stepping : State :=
  { programming .header ⟨4141, 3#32, 0, 0#32, false⟩ with pending := [.pulseDone whole] }

/-- A state that meets the invariant, Port B in LEVEL mode with a notice, a fetch of it waiting. -/
def levelStep : State :=
  { ready with
    array := [(1, ⟨0#32, 2#32⟩)]
    policy := ready.policy.set 1 2#32
    portB := { PortState.reset with ring := [⟨.mountDone, 0, 0#32, none⟩], lineLow := true }
    pending := [.fetchNotice .spiB] }

theorem witness_emptyQueueIdles : ready.pending = [] := rfl

/-- InvariantKept, QuotaKept, DirectoryKept, RingsKept, MarksOnlyAccumulate, LinesFollowTheirMode,
CountersNeverFall, OneHolderKept, CellsOnlyRise: a step that programs. -/
theorem witness_invariant_at_a_pulse :
    Inv stepping ∧ stepping.device = .ready ∧
      nextIs (step stepping) (fun t => decide (t.device = .ready) && t.array != []) = true := by
  refine ⟨?_, by decide, by decide +kernel⟩
  refine ⟨?_, ?_, ?_, ?_, ?_, ?_, ?_, ?_, ?_, ?_, ?_, ?_⟩ <;> decide +kernel

/-- The same statements: a step on a LEVEL line. -/
theorem witness_invariant_at_a_level_line :
    Inv levelStep ∧ levelMode levelStep .b = true ∧ nextIs (step levelStep) (fun t => !t.portB.lineLow) = true := by
  refine ⟨?_, by decide, by decide +kernel⟩
  refine ⟨?_, ?_, ?_, ?_, ?_, ?_, ?_, ?_, ?_, ?_, ?_, ?_⟩ <;> decide +kernel

/-- The same statements: a step of the mount. -/
theorem witness_invariant_at_a_mount_step :
    Inv { mounting .options [] with pending := [.mountOptions] } ∧
      nextIs (step { mounting .options [] with pending := [.mountOptions] }) (fun t => t.policy.length == 38) =
        true := by
  refine ⟨?_, by decide +kernel⟩
  refine ⟨?_, ?_, ?_, ?_, ?_, ?_, ?_, ?_, ?_, ?_, ?_, ?_⟩ <;> decide +kernel

theorem witness_everyCommandCompletes : Inv ready := by
  refine ⟨?_, ?_, ?_, ?_, ?_, ?_, ?_, ?_, ?_, ?_, ?_, ?_⟩ <;> decide +kernel

theorem witness_writeProtectHolds :
    let s := { programming .header ⟨4141, 3#32, 0, 0#32, true⟩ with pgmEn := false, pending := [.pulseDone whole] }
    CutOk s ∧ s.pgmEn = false ∧ nextIs (step s) (fun t => t.engine == Engine.resting) = true := by decide +kernel

theorem witness_pulseFollowsTable :
    let c : Cells := ⟨1#32, 0x80000000#32⟩
    c.weak &&& c.sound = 0#32 ∧ (0xF#32).getLsbD 31 = false ∧ c.sound.getLsbD 31 = true ∧
      c.weak.getLsbD 0 = true := by decide

theorem witness_pulseFollowsTable_outcome :
    let c : Cells := ⟨1#32, 0x80000000#32⟩
    c.weak &&& c.sound = 0#32 ∧ ∀ i : Nat,
      ((0#32).getLsbD i = false → c.weak.getLsbD i = c.weak.getLsbD i ∧ c.sound.getLsbD i = c.sound.getLsbD i) ∧
      (c.sound.getLsbD i = true → c.sound.getLsbD i = true) ∧
      (c.weak.getLsbD i = true → (c.weak.getLsbD i || c.sound.getLsbD i) = true) :=
  ⟨by decide, fun i => ⟨fun _ => ⟨rfl, rfl⟩, fun h => h, fun h => by rw [h]; rfl⟩⟩

theorem witness_codedWordsHold :
    (Header.mk 1 0 0 .tombstone .a).inRange = true ∧ (Header.mk 4094 59 3 .data .c).inRange = true ∧
      (decodeHeader (encodeHeader ⟨4094, 59, 3, .data, .c⟩)).isSome = true ∧
      (decodeBase (encodeBase 16777215)).isSome = true ∧ (decodeClaim (encodeClaim 15)).isSome = true := by decide

theorem witness_resetClearsRam :
    Memory.wf [(16383, ⟨1#32, 2#32⟩)] = true ∧
      (programming .header ⟨16383, 3#32, 0, 0#32, false⟩).engine.seq.all (fun q => decide (q.word < 16384)) =
        true := by decide

theorem witness_mountBegins :
    State.reset.rstLow = true ∧
      let s := mounting .options []
      s.device = .mounting ∧ s.powered = true ∧ s.rstLow = false ∧ s.mount.phase = .options := by decide

/-- Strip 511 is CLAIMED by counter 3, base 0, positions 0 and 191 set. -/
def lastStrip : Memory :=
  [(4126, ⟨0#32, encodeBase 0⟩), (4127, ⟨0#32, encodeClaim 3⟩), (4128, ⟨0#32, 1#32⟩),
    (4133, ⟨0x80000000#32, 0#32⟩)]

theorem witness_mountStripsBuildsCounters :
    let s := mounting .strips lastStrip
    s.device = .mounting ∧ s.powered = true ∧ s.rstLow = false ∧ s.mount.phase = .strips ∧
      nextIs (exec .mountStrips s) (fun t =>
        (counterEntry t 2).strip == none && counterEntry t 3 == ⟨3, some 511, 0, 2, some 191, 2⟩ &&
          t.log.stripCursor == 512) = true := by decide +kernel

/-- A weak claim of a current strip is offered, and withheld under auto-repair-off. -/
theorem witness_mountStripsBuildsCounters_offer :
    let weak : Memory := [(38, ⟨0#32, encodeBase 0⟩), (39, ⟨encodeClaim 15, 0#32⟩)]
    let s := mounting .strips weak
    let off := { s with policy := (List.replicate 38 0#32).set 1 0x10#32 }
    (copyWord s 1).getLsbD 4 = false ∧ s.repair.entries = [] ∧ (copyWord off 1).getLsbD 4 = true ∧
      nextIs (exec .mountStrips s) (fun t => t.repair.entries == [⟨.touchUp, 39⟩]) = true ∧
      nextIs (exec .mountStrips off) (fun t => t.mount.report.withheld == 1) = true := by decide +kernel

/-- One record at 4134: the TOMBSTONE of key 513 with sequence 1, committed and not retired. -/
def oneRecord : Memory :=
  let header := encodeHeader ⟨513, 0, 0, .tombstone, .b⟩
  [(4134, ⟨0#32, header⟩), (4135, ⟨0#32, 1#32⟩), (4136, ⟨0#32, recordCheck header 1#32 []⟩),
    (4137, ⟨0#32, BitVec.allOnes 32⟩)]

theorem witness_mountRecordsChoosesWinners :
    let s := mounting .records oneRecord
    s.device = .mounting ∧ s.powered = true ∧ s.rstLow = false ∧ s.mount.phase = .records ∧
      nextIs (exec .mountRecords s) (fun t =>
        t.log == ⟨4139, 2, 0⟩ && t.mount.keyTable.map (fun k => k.key) == [513] &&
          t.mount.keyTable.map (fun k => k.winner.cls) == [.candidate]) = true := by decide +kernel

/-- One key with two committed records, the later commit weak, and a TORN_HEADER at the log's end: the first
record is stale, the winner draws a touch-up. -/
theorem witness_mountRecordsChoosesWinners_offers :
    let header := encodeHeader ⟨513, 0, 0, .tombstone, .b⟩
    let weak : Memory := oneRecord ++
      [(4139, ⟨0#32, header⟩), (4141, ⟨0#32, recordCheck header 0#32 []⟩), (4142, ⟨BitVec.allOnes 32, 0#32⟩),
        (4144, ⟨0#32, 1#32⟩)]
    let s := mounting .records weak
    let off := { s with policy := (List.replicate 38 0#32).set 1 0x10#32 }
    (copyWord s 1).getLsbD 4 = false ∧ s.repair.entries.length ≤ 32 ∧ (∀ e ∈ s.repair.entries, e.word < 4134) ∧
      (copyWord off 1).getLsbD 4 = true ∧ readNormal weak 4144 ≠ 0#32 ∧ spanHeader weak 4144 = none ∧
      spanHeader weak 4139 = some ⟨513, 0, 0, .tombstone, .b⟩ ∧ readNormal weak 4145 = 0#32 ∧
      nextIs (exec .mountRecords s) (fun t =>
        t.log == ⟨4145, 3, 0⟩ && t.repair.entries == [⟨.retire, 4138⟩, ⟨.touchUp, 4142⟩]) = true ∧
      nextIs (exec .mountRecords off) (fun t => t.mount.report.withheld == 2) = true := by decide +kernel

theorem witness_mountRecordsChoosesWinners_empty :
    nextIs (exec .mountRecords (mounting .records [])) (fun t => t.log == ⟨4134, 1, 0⟩ && t.mount.keyTable == []) =
      true := by decide +kernel

/-- The record of `oneRecord` as the walk finds it. -/
def found513 : FoundRecord := ⟨4134, ⟨513, 0, 0, .tombstone, .b⟩, .candidate, 1, true⟩

theorem witness_mountSortBuildsDirectory :
    let s0 := mounting .sort oneRecord
    let s := { s0 with
      mount := { s0.mount with keyTable := [⟨513, found513, []⟩] }
      policy := (List.replicate 38 0#32).set 1 1#32 }
    s.device = .mounting ∧ s.powered = true ∧ s.rstLow = false ∧ s.mount.phase = .sort ∧
      s.mount.keyTable.Pairwise (fun x y => x.key ≠ y.key) ∧
      (∀ k ∈ s.mount.keyTable, k.winner.seq ≤ 4294967295) ∧ (∀ k ∈ s.mount.keyTable, k.key ≠ 514) ∧
      (s.port .a).ring.length < 16 ∧ (copyWord s 1).getLsbD (portIndex .a) = true ∧
      (copyWord s 1).getLsbD (portIndex .b) = false ∧ (s.port .b).mask.getLsbD 4 = true := by decide

theorem witness_pinEvents :
    Memory.wf [(16383, ⟨1#32, 2#32⟩)] = true ∧
      (programming .header ⟨16383, 3#32, 0, 0#32, false⟩).engine.seq.all (fun q => decide (q.word < 16384)) = true ∧
      ({ ready with portB := { PortState.reset with pulseActive := true } }.port .b).pulseActive = true := by decide

theorem witness_frameRowsRoundTrip :
    (∀ cmd ∈ allCommands, (commandRow .spiA ⟨1#8, 251#8, []⟩ cmd).wellFormed = true ∧
      (rowFrame (commandRow .spiA ⟨1#8, 251#8, []⟩ cmd)).isSome = true) ∧
    (Instr.incompleteFrame .spiB []).wellFormed = true ∧ (rowFrame (.incompleteFrame .spiB [])).isSome = true ∧
    (Instr.unknownCommand .spiB 0#8 ⟨1#8, 251#8, []⟩).wellFormed = true ∧
    (rowFrame (.unknownCommand .spiB 0#8 ⟨1#8, 251#8, []⟩)).isSome = true := by decide

theorem witness_framesNotTaken :
    reachedPort ready .spiA = some .a ∧ ([0x06#8, 1#8, 250#8].length < 4 + byteAt [0x06#8, 1#8, 250#8] 2) ∧
      byteAt [0x06#8, 1#8, 250#8] 2 ≤ 250 ∧
      ¬ ([0x06#8, 1#8, 251#8].length < 3 ∨ (byteAt [0x06#8, 1#8, 251#8] 2 ≤ 250 ∧
          [0x06#8, 1#8, 251#8].length < 4 + byteAt [0x06#8, 1#8, 251#8] 2)) ∧
      slotFree { PortState.reset with slot := .working ⟨1#8, 9⟩ } = false := by decide

theorem witness_unknown_code : ∀ cmd : Command, commandCode cmd ≠ 0x0D#8 := by intro cmd; cases cmd <;> decide

theorem witness_takenFrameRefused :
    Takes ready .spiA .a ∧ Takes (mounting .sort []) (.i2c 0x58#7) .c ∧ 250 < (251#8).toNat ∧
      (0#8).toNat + 1 < [0#8, 0#8].length ∧
      ((0#8).toNat + 1 = [0#8].length ∧ [0#8].getD 0 0#8 ≠ crc8 [commandCode .status, 1#8, 0#8]) ∧
      (List.replicate 250 0#8).length ≤ 250 := by decide +kernel

/-- TakenFrameRefused's unknown codes: a length over 250, surplus bytes and a wrong CRC-8. -/
theorem witness_takenFrameRefused_unknown :
    250 < (251#8).toNat ∧ (0#8).toNat + 1 < [0#8, 0#8].length ∧
      ((0#8).toNat + 1 = [0#8].length ∧ [0#8].getD 0 0#8 ≠ crc8 [0x0D#8, 1#8, 0#8]) ∧
      nextIs (exec (.unknownCommand .spiA 0x0D#8 ⟨1#8, 0#8, [0#8]⟩) ready)
        (fun t => t.portA.reply == some ⟨.frameError, 0x0D#8, 1#8, []⟩) = true := by decide +kernel

theorem witness_mountingRefusesCommands :
    Takes (mounting .sort []) .spiB .b ∧ (mounting .sort []).device = .mounting ∧ Command.read ≠ .status ∧
      [1#8, 0#8].length ≤ 250 := by decide

theorem witness_badParametersRefused :
    Takes ready .spiB .b ∧ (List.replicate 250 0#8).length ≤ 250 ∧
      (∀ cmd ∈ allCommands, paramsFit cmd (List.replicate 250 0#8) = false) ∧
      paramsFit .read [0#8, 0#8] = false ∧ paramsFit .info [0xFF#8, 0x0F#8] = false ∧
      paramsFit .countAdvance [0#8, 0#8, 0#8] = false ∧ paramsFit .restrict [32#8, 1#8] = false ∧
      paramsFit .setOption [0x20#8] = false ∧ paramsFit .audit [2#8] = false := by decide +kernel

/-- ReadEntersClaim and InfoAnswers: the least and the greatest key, DENIED, absent and present. -/
theorem witness_queries_by_key :
    Takes ready (.i2c 0x58#7) .c ∧ ready.device = .ready ∧
      (copyWord (withMarks 2 1#32) (2 + 1 / 256)).getLsbD (portIndex .a) = true ∧
      (copyWord (withMarks 2 1#32) (2 + 4094 / 256)).getLsbD (portIndex .a) = false ∧
      dirFind (withMarks 2 1#32).directory 4094 = none ∧ dirFind (withMarks 2 1#32).directory 513 = some entry513 ∧
      (copyWord (withMarks 2 1#32) (2 + 513 / 256)).getLsbD (portIndex .a) = false := by decide

theorem witness_deniedEntriesDoNotShow :
    let s := withMarks 4 1#32
    reachedPort s .spiA = some .a ∧ s.directory.filter (fun e => !keyDenied s .a e.key) = [] ∧
      nextIs (exec (.info .spiA (goodFrame .info 1#8 [1#8, 2#8])) s) (fun _ => true) = true ∧
      nextIs (exec (.list .spiA (goodFrame .list 1#8 [1#8, 0#8])) s) (fun _ => true) = true := by decide +kernel

/-- CounterAndPolicyQueries, StatusAndReportAnswer, AlertMaskReplaced, PortResetEmptiesPort, JobAccepted and
JobRefused: a frame is taken in each device state. -/
theorem witness_frames_are_taken :
    (∀ p ∈ [(Bus.spiA, Port.a), (.spiB, .b), (.i2c 0x58#7, .c)],
      Takes ready p.1 p.2 ∧ Takes (mounting .sort []) p.1 p.2) ∧ ready.device = .ready ∧
      (mounting .sort []).device = .mounting := by decide

theorem witness_subscriptionsChange :
    subscriptionInRange ⟨.key, 1⟩ = true ∧ subscriptionInRange ⟨.key, 4094⟩ = true ∧
      subscriptionInRange ⟨.counter, 0⟩ = true ∧ subscriptionInRange ⟨.counter, 15⟩ = true ∧
      Takes ready .spiA .a := by decide

theorem witness_jobAccepted :
    ∀ k ∈ [JobKind.append 4094 (some 4294967295) (List.replicate 236 0#8), .delete 1 none,
        .countAdvance 15 65535, .countRaise 0 16777215, .restrict (.counter 15) 0x7F#8, .setOption 0x1F#8, .close],
      kindInRange k = true ∧ accessRefusal ready .a k = none ∧ lifeCycleRefusal ready .a k = none ∧
        (ready.port .a).outstanding < 3 ∧ (ready.port .a).outstanding + (ready.port .a).results.length < 4 ∧
        ready.jobs.length < 8 := by decide +kernel

theorem witness_jobRefused :
    kindInRange (.append 513 none []) = true ∧ accessRefusal (withMarks 4 8#32) .a (.append 513 none []) = some .denied ∧
      accessRefusal (withMarks 4 64#32) .a (.append 513 none []) = some .frozen ∧
      (accessRefusal (withMarks 0 1#32) .a .close = none ∧ lifeCycleRefusal (withMarks 0 1#32) .a .close = some .locked) ∧
      accessRefusal ready .b .close = none ∧ lifeCycleRefusal ready .b .close = none ∧
      (3 ≤ ({ ready with portB := { PortState.reset with outstanding := 3 } }.port .b).outstanding) ∧
      8 ≤ { ready with jobs := List.replicate 8 (jobB .close) }.jobs.length := by decide

theorem witness_lifeCycleJudged :
    copyWord ready 0 = 0#32 ∧ copyWord (withMarks 0 1#32) 0 ≠ 0#32 ∧ (0x7F#8).getLsbD 7 = false := by decide

theorem witness_auditRequested :
    Takes ready .spiA .a ∧ ready.audit.running = false ∧
      { ready with audit := { ready.audit with running := true } }.audit.running = true ∧
      (ready.port .a).outstanding < 3 ∧ (ready.port .a).outstanding + (ready.port .a).results.length < 4 ∧
      4134 < { ready with log := ⟨4135, 1, 0⟩ }.log.appendPoint ∧ ready.log.appendPoint ≤ 4134 ∧
      0 < { ready with log := ⟨4134, 1, 1⟩ }.log.stripCursor ∧ ready.log.stripCursor = 0 ∧
      3 ≤ ({ ready with portA := { PortState.reset with outstanding := 3 } }.port .a).outstanding := by decide

/-- FetchReplyAnswers, FetchTakesOldest and PortStatusReports: each port, each clause. -/
theorem witness_fetches :
    Fetches ready .spiA .a .fetchReply ∧ Fetches ready .spiB .b .fetchResult ∧
      Fetches { ready with lastSelector := .fetchNotice } (.i2c 0x58#7) .c .fetchNotice ∧
      { ready.portA with slot := .replyReady, reply := some ⟨.ok, 6#8, 1#8, []⟩ }.reply =
        some ⟨.ok, 6#8, 1#8, []⟩ ∧
      ready.portA.slot = .empty ∧ { ready.portA with slot := .working ⟨1#8, 9⟩ }.slot = .working ⟨1#8, 9⟩ ∧
      ready.portA.results = [] ∧ ready.portA.ring = [] ∧
      levelStep.portB.ring = ⟨.mountDone, 0, 0#32, none⟩ :: [] ∧
      { ready.portB with results := [⟨.ok, 1#8, .audit, .audit 0 0 0⟩] }.results =
        ⟨.ok, 1#8, .audit, .audit 0 0 0⟩ :: [] := by decide

theorem witness_portStatusReports :
    reachedPort { ready with lastSelector := .sendFrame } (.i2c 0x58#7) = some .c ∧
      { ready with lastSelector := .sendFrame }.lastSelector = .sendFrame ∧
      ready.lastSelector = .portStatus ∧ (0x80#8).toNat = 0 + 4 * 0 + 16 * 0 + 32 * 0 + 64 * 0 + 128 * ready.pgmEn.toNat := by
  decide

theorem witness_lastSelectorKept :
    ready.powered = true ∧ 0x58#7 = 0b10110#5 ++ ready.portCAdr ∧ 0x59#7 ≠ 0b10110#5 ++ ready.portCAdr ∧
      reachedPort ready (.i2c 0x59#7) = none ∧ reachedPort { ready with powered := false } .spiA = none := by decide

/-- A job at the head of the queue that passes the general checks: RecordJobStarts, CounterJobStarts,
PolicyAndRepairStart. -/
theorem witness_head_jobs :
    ∀ k ∈ [JobKind.append 513 none [1#8], .delete 513 none, .countAdvance 3 1, .countRaise 3 0,
        .restrict (.group 15) 1#8, .setOption 1#8, .close],
      HeadJob (queued k) (jobB k) [] ∧ GeneralChecksPass (queued k) (jobB k) := by decide

theorem witness_startChecksRefuse :
    HeadJob { queued .close with pgmEn := false } (jobB .close) [] ∧
      accessRefusal (withMarks 4 0x40#32) .b (.delete 513 none) = some .frozen ∧
      (accessRefusal (withMarks 0 1#32) .b .close = none ∧
        lifeCycleRefusal (withMarks 0 1#32) .b .close = some .locked) := by decide

theorem witness_workWaiting :
    workWaiting { PortState.reset with mask := 0x20#6, results := [⟨.ok, 1#8, .audit, .audit 0 0 0⟩] } = true ∧
      workWaiting { PortState.reset with mask := 0x10#6, ring := [⟨.mountDone, 0, 0#32, none⟩] } = true ∧
      workWaiting { PortState.reset with mask := 0x0F#6, ring := [⟨.mountDone, 0, 0#32, none⟩] } = false := by decide

theorem witness_recordJobStarts :
    expectedMet (some 1) (dirFind [entry513] 513) = true ∧ expectedMet (some 2) (dirFind [entry513] 513) = false ∧
      dirFind [] 513 = none ∧ (List.replicate 1024 entry513).length < 1025 ∧
      1024 ≤ (List.replicate 1024 entry513).length ∧ dirFind (List.replicate 1024 entry513) 514 = none ∧
      expectedMet none (dirFind (List.replicate 1024 entry513) 514) = true ∧
      16384 < 16379 + 5 + (1 + 3) / 4 ∧ 16378 + 5 + (1 + 3) / 4 ≤ 16384 ∧
      (∀ e, dirFind [{ entry513 with state := .deleted }] 513 = some e → e.state = .deleted) ∧
      dirFind [{ entry513 with state := .lost }] 513 = some { entry513 with state := .lost } := by
  refine ⟨by decide, by decide, by decide, by decide +kernel, by decide +kernel, by decide +kernel,
    by decide +kernel, by decide, by decide, ?_, by decide⟩
  intro e h
  cases h
  rfl

/-- `ready` with counter 3 on strip 511, position 190 its highest. -/
def nearEnd : State := { ready with counters := [⟨3, some 511, 0, 191, some 190, 191⟩] }

theorem witness_counterJobStarts :
    191 ≤ (counterEntry nearEnd 3).value ∧ 16777215 < (counterEntry nearEnd 3).value + (16777215 - 190) ∧
      (counterEntry nearEnd 3).value + 1 ≤ 16777215 ∧ (counterEntry nearEnd 3).strip = some 511 ∧
      191 + 1 ≤ 192 ∧ 192 < 191 + 2 ∧ (counterEntry ready 3).strip = none ∧
      512 ≤ { nearEnd with log := ⟨4134, 1, 512⟩ }.log.stripCursor ∧ nearEnd.log.stripCursor < 512 := by decide

theorem witness_repairStart :
    let s := { ready with repair := ⟨[⟨.retire, 16383⟩], 0, 0⟩ }
    s.device = .ready ∧ s.engine.state = .idle ∧ s.jobs = [] ∧ s.pgmEn = true ∧
      s.repair.entries = ⟨.retire, 16383⟩ :: [] := by decide

theorem witness_readerRotation :
    let s := { ready with
      arbiter := ⟨.none, ⟨true, true, true, true, true⟩, .engine, .b, none⟩ }
    s.device = .ready ∧ s.arbiter.holder = .none ∧ s.arbiter.decided = none ∧
      (s.arbiter.claims.engine = true → s.arbiter.lastClass = .engine) ∧
      claimPending s.arbiter.claims (.reader (cyclicNext 0 s.arbiter.lastServed)) = true ∧
      cyclicNext 0 s.arbiter.lastServed = .c ∧
      (∀ m : Fin 3, m < 0 →
        claimPending s.arbiter.claims (.reader (cyclicNext m s.arbiter.lastServed)) = false) := by decide

/-- The rotation at its end: only the port last served claims. -/
theorem witness_readerRotation_last :
    let c : Claims := ⟨false, false, true, false, false⟩
    cyclicNext 2 .b = .b ∧ claimPending c (.reader .b) = true ∧
      (∀ m : Fin 3, m < 2 → claimPending c (.reader (cyclicNext m .b)) = false) := by decide

theorem witness_readBurst :
    let s := { withMarks 4 1#32 with
      arbiter := ⟨.none, ⟨false, true, true, false, false⟩, .none, .c, none⟩
      portA := { PortState.reset with slot := .working ⟨1#8, 513⟩ } }
    s.device = .ready ∧ s.arbiter.holder = .none ∧
      (s.arbiter.decided = none ∧ chooseClaimant s.arbiter = some (.reader .a)) ∧
      { s.arbiter with decided := some (.reader .b) }.decided = some (.reader .b) ∧
      (s.port .a).slot = .working ⟨1#8, 513⟩ ∧ keyDenied s .a 513 = true ∧ keyDenied ready .a 513 = false ∧
      dirFind ready.directory 513 = none ∧ dirFind s.directory 513 = some entry513 ∧ entry513.state = .live ∧
      entry513.w ≠ 0 ∧ { entry513 with w := 0, pad := 0 }.w = 0 := by decide

/-- ReadBurst's two READs at a free array with no claim, the least and the greatest key. -/
theorem witness_readBurst_first_claim :
    Takes ready .spiA .a ∧ Takes ready (.i2c 0x58#7) .c ∧ Port.c ≠ .a ∧ ready.device = .ready ∧
      ready.arbiter.holder = .none ∧ ready.arbiter.decided = none ∧
      ready.arbiter.claims = ⟨false, false, false, false, false⟩ ∧ 1 ≤ 1 ∧ 4094 ≤ 4094 := by decide

/-- ReadBurst's end and FetchReplyAnswers' two orders: a payload that ends at word 16383. -/
theorem witness_readBurst_end :
    let s := { ready with
      arbiter := { ready.arbiter with holder := .reader .a { entry513 with location := 16380 } }
      portA := { PortState.reset with slot := .working ⟨1#8, 513⟩ } }
    s.arbiter.holder = .reader .a { entry513 with location := 16380 } ∧
      (s.port .a).slot = .working ⟨1#8, 513⟩ ∧ 16380 + 1 + entry513.w < 16384 ∧
      Fetches s .spiA .a .fetchReply := by decide

theorem witness_engineAndAuditGrants :
    let q : Sequence := ⟨16383, 3#32, 0, 0#32, false⟩
    let s := { ready with
      engine := ⟨.waiting, some (jobB .close), none, .policy false, some q⟩
      arbiter := ⟨.none, ⟨true, false, false, false, false⟩, .none, .c, none⟩ }
    s.device = .ready ∧ s.arbiter.holder = .none ∧ s.arbiter.decided = none ∧ s.arbiter.claims.engine = true ∧
      { s.arbiter with decided := some .engine }.decided = some .engine ∧
      (s.arbiter.claims.readerA = false ∧ s.arbiter.claims.readerB = false ∧ s.arbiter.claims.readerC = false) ∧
      s.engine.seq = some q ∧ q.word < 16384 ∧
      (q.target ||| readNormal s.array q.word) &&& ~~~ readMargin s.array q.word ≠ 0#32 ∧ s.pgmEn = true ∧
      (q.target ||| readNormal [(16383, ⟨0#32, 3#32⟩)] q.word) &&& ~~~ readMargin [(16383, ⟨0#32, 3#32⟩)] q.word =
        0#32 ∧
      { s with pgmEn := false }.pgmEn = false ∧
      { ready with arbiter := ⟨.none, ⟨true, true, false, false, false⟩, .reader, .c, none⟩ }.arbiter.lastClass ≠ .engine ∧
      ready.arbiter.decided = none ∧ ready.arbiter.claims = ⟨false, false, false, false, false⟩ := by decide

theorem witness_audit_grant :
    let s := { ready with arbiter := ⟨.none, ⟨false, false, false, false, true⟩, .none, .c, none⟩ }
    s.device = .ready ∧ s.arbiter.holder = .none ∧ s.arbiter.decided = none ∧
      s.arbiter.claims = ⟨false, false, false, false, true⟩ ∧
      { s.arbiter with decided := some .audit }.decided = some .audit := by decide

/-- PulseJudged: the sequence of `stepping`; a whole pulse succeeds, a pulse without effect is followed by
another at 1 of 6, fails at 6, and is BLOCKED with PGM_EN low. -/
theorem witness_pulseJudged :
    Memory.wf stepping.array = true ∧ stepping.engine.state = .programming ∧
      stepping.engine.seq = some ⟨4141, 3#32, 0, 0#32, false⟩ ∧
      3#32 &&& ~~~ readMargin (pulseWord [] 4141 3#32 whole) 4141 = 0#32 ∧
      3#32 &&& ~~~ readMargin (pulseWord [] 4141 3#32 ⟨0#32, 3#32⟩) 4141 ≠ 0#32 ∧ 4 + 1 < 6 ∧ 6 ≤ 5 + 1 := by decide

theorem witness_recordWordJudged :
    let s := programming .header ⟨4141, 3#32, 0, 0#32, false⟩
    s.engine.job = some (jobB (.append 513 none [1#8, 2#8, 3#8, 4#8])) ∧ s.engine.repair = none ∧
      s.engine.work = .record ⟨1, some span1, .header, none⟩ ∧
      recordFields (.append 513 none [1#8, 2#8, 3#8, 4#8]) = some (513, .data, [1#8, 2#8, 3#8, 4#8]) ∧
      (outcome .succeeded 3#32).cls = .succeeded ∧ s.pgmEn = true ∧ (outcome .failed 3#32).cls = .failed ∧
      (outcome .blocked 3#32).cls = .blocked ∧ 1 < 3 ∧ 4141 + 6 ≤ 16384 ∧ s.log.nextSeq < 4294967295 := by decide

/-- RecordWordJudged and CommitPublishes: PGM_EN low, a span that does not fit or has no sequence number to take,
attempts used up; a commit that failed short of and at all ones; the self-retire. -/
theorem witness_relocations :
    let s := programming .selfRetire ⟨4146, BitVec.allOnes 32, 0, 0#32, false⟩
    { s with pgmEn := false }.pgmEn = false ∧ 3 ≤ (RecordWork.mk 3 (some span1) .selfRetire none).attempts ∧
      16384 < 16379 + (5 + (1 + 3) / 4) ∧ 16378 + (5 + (1 + 3) / 4) ≤ 16384 ∧
      4294967295 ≤ { s with log := ⟨4147, 4294967295, 0⟩ }.log.nextSeq ∧
      4294967294 < 4294967295 ∧ s.engine.work = .record ⟨1, some span1, .selfRetire, none⟩ ∧
      (outcome .failed (BitVec.allOnes 32)).normal = BitVec.allOnes 32 ∧
      (outcome .failed 0x7FFFFFFF#32).normal ≠ BitVec.allOnes 32 ∧ (outcome .succeeded 0#32).cls ≠ .blocked ∧
      (outcome .blocked 0#32).cls = .blocked := by decide

/-- CommitPublishes, CounterWordJudged and PolicySequenceJudged: a notice at a ring of 15 and of 16, on a PULSE
line with its kind enabled and disabled and on a LEVEL line; a result of a job and of an orphan. -/
theorem witness_arrivals :
    let n : Notice := ⟨.mountDone, 0, 0#32, none⟩
    let at15 : PortState := { PortState.reset with ring := List.replicate 15 n }
    let at16 : PortState := { at15 with ring := List.replicate 16 n, mask := 0x0F#6 }
    let ok : Result := ⟨.ok, 1#8, .append, .job 1 0 false 1⟩
    (noticed false n at15).wrapped = false ∧ (noticed false n at15).pulseActive = true ∧
      (noticed false n at16).wrapped = true ∧ (noticed false n at16).ring.length = 16 ∧
      (noticed false n at16).pulseActive = false ∧ (noticed true n at15).lineLow = true ∧
      (noticed true n at15).pulseActive = false ∧ (jobEnded false false ok at15).pulseActive = true ∧
      (jobEnded false true ok { at15 with outstanding := 1 }).outstanding = 0 ∧
      (jobEnded false true ok at15).results = [] ∧ alertLevel levelStep .b = true ∧ alertLevel ready .b = false := by
  decide

theorem witness_commitPublishes :
    let s := programming .commit ⟨4145, BitVec.allOnes 32, 0, 0#32, false⟩
    s.engine.work = .record ⟨1, some span1, .commit, none⟩ ∧
      recordFields (.append 513 none [1#8, 2#8, 3#8, 4#8]) = some (513, .data, [1#8, 2#8, 3#8, 4#8]) ∧
      s.directory.Pairwise (fun x y => x.key < y.key) ∧ dirFind s.directory 513 = some entry513 ∧ s.pgmEn = true ∧
      (jobB .close).orphan = false ∧ dirFind { s with directory := [] }.directory 513 = none ∧
      (programming .retire ⟨4140, BitVec.allOnes 32, 0, 0#32, false⟩).engine.work =
        .record ⟨1, some span1, .retire, none⟩ := by decide

/-- The counter work of a COUNT-ADVANCE by 3 whose next position is 31. -/
def work31 (opening : Option (Nat × OpenStage)) : CounterWork := ⟨3, 31, 34, 3, 31, 0, opening⟩

/-- `work31` in hand, counter 3 on strip 0 with 31 positions set. -/
def stepping31 (opening : Option (Nat × OpenStage)) : State :=
  { working (.countAdvance 3 3) (.counter (work31 opening)) with counters := [⟨3, some 0, 0, 31, some 30, 31⟩] }

theorem witness_counterWordJudged :
    (stepping31 none).engine.job = some (jobB (.countAdvance 3 3)) ∧ (stepping31 none).engine.repair = none ∧
      (stepping31 none).engine.work = .counter (work31 none) ∧
      (stepping31 none).counters.find? (fun x => x.id == 3) = some ⟨3, some 0, 0, 31, some 30, 31⟩ ∧
      (∀ i < 32, (0x80000000#32).getLsbD i = decide (31 % 32 ≤ i ∧ i < 31 % 32 + min 3 (32 - 31 % 32))) ∧
      31 + onesCount (0x80000000#32 &&& 0x80000000#32) ≤ 16777215 ∧
      jobCounter (jobB (.countAdvance 3 3)).kind = some (work31 none).counter := by decide

/-- CounterWordJudged's thermometer outcomes: BLOCKED, target reached, a further step, PGM_EN low, and a strip
used up. -/
theorem witness_counterWordJudged_thermometer :
    (outcome .blocked 0#32).cls = .blocked ∧ (outcome .succeeded 0x80000000#32).cls ≠ .blocked ∧
      { work31 none with remaining := 1 }.remaining - onesCount (0x80000000#32 &&& 0x80000000#32) = 0 ∧
      (work31 none).remaining - onesCount (0x80000000#32 &&& 0x80000000#32) ≠ 0 ∧ 31 + 1 < 192 ∧ 192 ≤ 191 + 1 ∧
      (stepping31 none).pgmEn = true ∧ { stepping31 none with pgmEn := false }.pgmEn = false := by decide

/-- CounterWordJudged's base, claim and void outcomes, at strip 511 and cursor 512, first and second attempt, the
claim reading its encoding or not. -/
theorem witness_counterWordJudged_open :
    (work31 (some (511, .base))).opening = some (511, .base) ∧
      (work31 (some (511, .claim))).opening = some (511, .claim) ∧
      (work31 (some (511, .void))).opening = some (511, .void) ∧ OpenStage.claim ≠ .base ∧ OpenStage.void ≠ .base ∧
      (outcome .failed (encodeClaim 3)).normal = encodeClaim (work31 none).counter ∧
      (outcome .failed (BitVec.allOnes 32)).normal ≠ encodeClaim (work31 none).counter ∧
      (outcome .failed 0#32).normal = 0#32 ∧ { work31 none with openAttempts := 1 }.openAttempts < 2 ∧
      2 ≤ { work31 none with openAttempts := 2 }.openAttempts ∧
      512 ≤ { stepping31 none with log := ⟨4134, 1, 512⟩ }.log.stripCursor ∧ (stepping31 none).log.stripCursor < 512 := by
  decide

theorem witness_policySequenceJudged :
    let s := working (.restrict (.counter 15) 1#8) (.policy true)
    s.engine.job = some (jobB (.restrict (.counter 15) 1#8)) ∧ s.engine.repair = none ∧
      s.engine.work = .policy true ∧ policyRequest (.restrict (.counter 15) 1#8) = some (33, 1#32) ∧
      33 < s.policy.length ∧ policyRequest (.setOption 1#8) = some (1, 1#32) ∧
      (1#32).getLsbD (portIndex .a) = true ∧ (copyWord s 1).getLsbD (portIndex .a) = false := by decide

theorem witness_repairJudged :
    { ready.engine with repair := some ⟨.touchUp, 16383⟩ }.repair = some ⟨.touchUp, 16383⟩ := rfl

theorem witness_auditUnitExamined :
    let s := { ready with
      array := oneRecord
      arbiter := { ready.arbiter with holder := .audit }
      audit := ⟨true, some (.c, 3#8), true, false, some 4139, some 512, .strips, 511, [], 0, 0, 0⟩ }
    s.arbiter.holder = .audit ∧ s.audit.running = true ∧ s.audit.findings.length ≤ 16 ∧
      s.audit.stage = .strips ∧ s.audit.position = 511 ∧ 511 < 512 ∧ 511 + 1 ≤ s.audit.capturedCursor.getD 0 := by
  decide

/-- A record compared, with its key in the directory and without. -/
theorem witness_auditUnitExamined_record :
    let s := { ready with
      array := oneRecord
      arbiter := { ready.arbiter with holder := .audit }
      audit := ⟨true, some (.c, 3#8), true, false, some 4139, some 1, .records, 4134, [], 0, 0, 0⟩ }
    s.audit.stage = .records ∧ s.audit.position = 4134 ∧
      spanHeader s.array 4134 = some ⟨513, 0, 0, .tombstone, .b⟩ ∧ competes (classifyRecord s.array 4134) = true ∧
      4134 + 5 + 0 ≤ s.audit.capturedAppend.getD 0 ∧ (dirFind s.directory 513).isSome = false ∧
      (dirFind (withMarks 4 0#32).directory 513).isSome = true := by decide +kernel

/-- Units that end stage RECORDS, a BLANK header and one that would pass the captured append point, and units that
are stepped over, a TORN_HEADER and a record cut before its commit. -/
theorem witness_auditUnitExamined_not_compared :
    let torn : Memory := [(4134, ⟨0#32, encodeHeader ⟨513, 0, 0, .tombstone, .b⟩⟩)]
    readNormal oneRecord 4139 = 0#32 ∧ (some 4138).getD 0 < 4134 + (5 + 0) ∧
      readNormal [(16383, ⟨1#32, 0#32⟩)] 16383 ≠ 0#32 ∧ spanHeader [(16383, ⟨1#32, 0#32⟩)] 16383 = none ∧
      competes (classifyRecord [(16383, ⟨1#32, 0#32⟩)] 16383) = false ∧ 16383 + 1 ≤ 16384 ∧
      readNormal torn 4134 ≠ 0#32 ∧ competes (classifyRecord torn 4134) = false := by decide +kernel

/-- The answers of Table 7-6: PRESENT before FULL. -/
theorem witness_offer_answers :
    let full : RepairList := ⟨(List.range 32).map (fun i => ⟨.touchUp, 4134 + i⟩), 0, 0⟩
    offerAnswer full ⟨.retire, 4134⟩ = .present ∧ offerAnswer full ⟨.retire, 4166⟩ = .full ∧
      offerAnswer { full with entries := full.entries.drop 1 } ⟨.retire, 4134⟩ = .added := by decide

end Sys2Proof.Tests
end

section
/-! The reader rotation of R18: the order in which the arbiter looks for a pending reader, the choice it makes,
and what the grant leaves in the arbiter. -/

namespace Sys2Proof.Machine

/-! ### The choice (R18, Table 1-12) -/

/-- The arbiter looks at the readers in the cyclic order, starting after the last-served one (R18). -/
theorem chooseReader_eq_find_cyclicNext (a : Arbiter) :
    chooseReader a =
      (List.ofFn (fun n => cyclicNext n a.lastServed)).find? (fun p => claimPending a.claims (.reader p)) := by
  have order : ∀ p : Port,
      [nextPort p, nextPort (nextPort p), p] = List.ofFn (fun n => cyclicNext n p) := by
    intro p; cases p <;> rfl
  rw [chooseReader, order]

/-- The chosen reader is the first pending one of the cyclic order (R18). -/
theorem chooseReader_eq_some {a : Arbiter} {n : Fin 3}
    (hpending : claimPending a.claims (.reader (cyclicNext n a.lastServed)) = true)
    (hpassed : ∀ m : Fin 3, m < n → claimPending a.claims (.reader (cyclicNext m a.lastServed)) = false) :
    chooseReader a = some (cyclicNext n a.lastServed) := by
  rw [chooseReader_eq_find_cyclicNext, List.find?_eq_some_iff_getElem]
  refine ⟨hpending, n, by simp, List.getElem_ofFn _, fun j hj => ?_⟩
  simp only [List.getElem_ofFn]
  simpa using hpassed ⟨j, by omega⟩ hj

/-- A pending reader is chosen unless the engine waits and the last grant was not the engine's (R17). -/
theorem chooseClaimant_eq_reader {a : Arbiter} {p : Port} (hreader : chooseReader a = some p)
    (hturn : a.claims.engine = true → a.lastClass = .engine) : chooseClaimant a = some (.reader p) := by
  cases hengine : a.claims.engine with
  | false => simp [chooseClaimant, hengine, hreader]
  | true => simp [chooseClaimant, hengine, hreader, hturn hengine]

/-! ### The grant (R16 to R18, R133) -/

@[simp] theorem recordGrant_reader_lastClass (p : Port) (a : Arbiter) :
    (recordGrant (.reader p) a).lastClass = .reader := rfl

@[simp] theorem recordGrant_reader_lastServed (p : Port) (a : Arbiter) :
    (recordGrant (.reader p) a).lastServed = p := rfl

/-- A reader's lookup, its answer or its hold, changes no more of the arbiter than the holder (R133). -/
@[simp] theorem grantReader_arbiter_frame (p : Port) (s : State) :
    (grantReader p s).arbiter.claims = s.arbiter.claims ∧
    (grantReader p s).arbiter.lastClass = s.arbiter.lastClass ∧
    (grantReader p s).arbiter.lastServed = s.arbiter.lastServed ∧
    (grantReader p s).arbiter.decided = s.arbiter.decided := by
  unfold grantReader
  split
  case h_1 r _ =>
    split
    · simp [(sameBlocks_answer p _ r.tag _ _ s).arbiter]
    · split <;> simp
  all_goals simp

/-- ARRAY_GRANT at a free array that is due to a reader (R15, R17). -/
theorem exec_arrayGrant_reader {s : State} {p : Port} (hready : s.device = .ready)
    (hfree : s.arbiter.holder = .none) (hdue : grantee s.arbiter = some (.reader p)) :
    exec .arrayGrant s = .next (grantReader p { s with arbiter := recordGrant (.reader p) s.arbiter }) := by
  change execArrayGrant s = _
  simp [execArrayGrant, hready, hfree, hdue]

/-- A device reset leaves the arbiter as at power-on (R113). -/
theorem arbiter_of_exec_deviceReset {cut : PulseEffect} {s t : State}
    (h : exec (.deviceReset cut) s = .next t) : t.arbiter = State.reset.arbiter := by
  change Host.Outcome.next (afterReset (pulsedArray s cut) s) = .next t at h
  cases h
  rfl

/-- Settles O51: the choice finds the first pending port of the cyclic order, and the grant records it. -/
theorem readerRotation : Obligations.ReaderRotation := by
  unfold Obligations.ReaderRotation
  refine ⟨rfl, fun cut s t h => by rw [arbiter_of_exec_deviceReset h]; rfl, ?_⟩
  rintro s _ n hready hfree hundecided hturn rfl hpending hpassed
  have hdue := (grantee_of_undecided hundecided).trans
    (chooseClaimant_eq_reader (chooseReader_eq_some hpending hpassed) hturn)
  exact ⟨_, exec_arrayGrant_reader hready hfree hdue, by simp, by simp, by simp⟩

end Sys2Proof.Machine
end

section
/-! The job checks against the policy copy: the access refusal (R24) and the life-cycle refusal (R25), and the
marks that a port may name in a RESTRICT of a CLOSED part, bit by bit (R106). -/

namespace Sys2Proof.Machine

/-! ### The access refusal (R24) -/

theorem portCReadOnly_eq (s : State) : portCReadOnly s = (copyWord s 1).getLsbD 3 := rfl

theorem keyPolicy_eq (s : State) (key : Nat) : keyPolicy s key = copyWord s (2 + key / 256) := rfl

theorem counterPolicy_eq (s : State) (c : Nat) : counterPolicy s c = copyWord s (18 + c) := rfl

/-- The own deny mark stands at bit 3 and the port's number, frozen at bit 6 (Table 12-1). -/
theorem writeRefusal_eq (v : Word) (p : Port) :
    writeRefusal v p =
      if v.getLsbD (3 + portIndex p) = true then some .denied
      else if v.getLsbD 6 = true then some .frozen else none := rfl

/-- Check 3 does not look at the job's kind. -/
theorem accessRefusal_of_readOnly {s : State} {p : Port} (h : p = .c ∧ portCReadOnly s = true) (k : JobKind) :
    accessRefusal s p k = some .denied := if_pos h

/-- Check 4, for a job that passes check 3. -/
theorem accessRefusal_of_not_readOnly {s : State} {p : Port} (h : ¬(p = .c ∧ portCReadOnly s = true)) :
    (∀ key e b, accessRefusal s p (.append key e b) = writeRefusal (keyPolicy s key) p) ∧
    (∀ key e, accessRefusal s p (.delete key e) = writeRefusal (keyPolicy s key) p) ∧
    (∀ c n, accessRefusal s p (.countAdvance c n) = writeRefusal (counterPolicy s c) p) ∧
    (∀ c v, accessRefusal s p (.countRaise c v) = writeRefusal (counterPolicy s c) p) ∧
    (∀ t marks, accessRefusal s p (.restrict t marks) = none) ∧
    (∀ marks, accessRefusal s p (.setOption marks) = none) ∧
    accessRefusal s p .close = none := by
  simp [accessRefusal, h]

/-- Settles O40: check 3 for every kind, then check 4 by the word that the kind writes under. -/
theorem accessJudgedByMarks : Obligations.AccessJudgedByMarks := by
  unfold Obligations.AccessJudgedByMarks
  rintro s p k _ rfl
  rw [← portCReadOnly_eq]
  by_cases hreadOnly : p = .c ∧ portCReadOnly s = true
  · rw [if_pos hreadOnly, accessRefusal_of_readOnly hreadOnly]
  · rw [if_neg hreadOnly]
    obtain ⟨happend, hdelete, hadvance, hraise, hrestrict, hoption, hclose⟩ :=
      accessRefusal_of_not_readOnly hreadOnly
    cases k with
    | append key e b => rw [happend, keyPolicy_eq, writeRefusal_eq]
    | delete key e => rw [hdelete, keyPolicy_eq, writeRefusal_eq]
    | countAdvance c n => rw [hadvance, counterPolicy_eq, writeRefusal_eq]
    | countRaise c v => rw [hraise, counterPolicy_eq, writeRefusal_eq]
    | restrict t marks => rw [hrestrict]
    | setOption marks => rw [hoption]
    | close => rw [hclose]

/-! ### The marks that CLOSED lets a port name (R106) -/

/-- `x` has no bit outside `y` exactly when every bit of `x` is one of `y`. -/
theorem and_not_eq_zero_iff {w : Nat} (x y : BitVec w) :
    x &&& ~~~ y = 0#w ↔ ∀ i : Fin w, x.getLsbD i = true → y.getLsbD i = true := by
  constructor
  · intro h i hx
    have hbit := congrArg (fun z => z.getLsbD i) h
    simpa [hx] using hbit
  · intro h
    refine BitVec.eq_of_getLsbD_eq fun i hi => ?_
    cases hx : x.getLsbD i with
    | false => simp [hx]
    | true => simp [h ⟨i, hi⟩ hx]

/-- The marks of a group or counter word are its bits 0 to 6 (Table 12-1). -/
theorem getLsbD_policyMarks (v : Word) (i : Fin 7) : (policyMarks v).getLsbD i = v.getLsbD i := by
  have hmark : ∀ i : Fin 7, (0x7F#32).getLsbD i = true := by decide
  have hbyte : i.val < 8 := by omega
  simp only [policyMarks, BitVec.getLsbD_setWidth, BitVec.getLsbD_and, hmark, hbyte, Bool.and_true,
    decide_true, Bool.true_and]

/-- R106 mark by mark: in force already, the port's own deny-read or deny-write, or frozen where the port may
write. -/
theorem getLsbD_restrictAllowed (v : Word) (p : Port) (i : Fin 7) :
    (restrictAllowed v p).getLsbD i = true ↔
      v.getLsbD i = true ∨ i.val = portIndex p ∨ i.val = 3 + portIndex p ∨
        (i.val = 6 ∧ v.getLsbD (3 + portIndex p) = false) := by
  have hown : ∀ (p : Port) (i : Fin 7), (1#8 <<< portIndex p).getLsbD i = decide (i.val = portIndex p) ∧
      (1#8 <<< (3 + portIndex p)).getLsbD i = decide (i.val = 3 + portIndex p) := by
    intro p; cases p <;> decide
  have hfrozen : ∀ i : Fin 7, (0x40#8).getLsbD i = decide (i.val = 6) := by decide
  obtain ⟨hread, hwrite⟩ := hown p i
  cases hdeny : v.getLsbD (3 + portIndex p) <;>
    simp [restrictAllowed, denyWrite, getLsbD_policyMarks, hdeny, hread, hwrite, hfrozen, or_assoc]

/-- A RESTRICT that names marks of Table 12-1 only names no mark beyond the allowed ones exactly when R106's
test passes each of them. -/
theorem restrict_allowed_iff (v : Word) (p : Port) {marks : Byte} (hmarks : marks.getLsbD 7 = false) :
    marks &&& ~~~ restrictAllowed v p = 0#8 ↔
      ∀ i : Fin 7, marks.getLsbD i = true →
        v.getLsbD i = true ∨ i.val = portIndex p ∨ i.val = 3 + portIndex p ∨
          (i.val = 6 ∧ v.getLsbD (3 + portIndex p) = false) := by
  rw [and_not_eq_zero_iff, Fin.forall_fin_succ']
  simp only [Fin.val_last, Fin.val_castSucc, hmarks, Bool.false_eq_true, false_implies, and_true,
    getLsbD_restrictAllowed]

/-! ### The life-cycle refusal (R25) -/

theorem isClosed_iff (s : State) : isClosed s = true ↔ copyWord s 0 ≠ 0#32 := by
  simp [isClosed]

/-- OPEN refuses nothing. -/
theorem lifeCycleRefusal_of_open {s : State} (h : copyWord s 0 = 0#32) (p : Port) (k : JobKind) :
    lifeCycleRefusal s p k = none := by
  have hopen : ¬ isClosed s = true := by simpa [isClosed_iff] using h
  exact if_neg hopen

/-- CLOSED, kind by kind. -/
theorem lifeCycleRefusal_of_closed {s : State} (h : copyWord s 0 ≠ 0#32) (p : Port) :
    (∀ key e b, lifeCycleRefusal s p (.append key e b) = none) ∧
    (∀ key e, lifeCycleRefusal s p (.delete key e) = none) ∧
    (∀ c n, lifeCycleRefusal s p (.countAdvance c n) = none) ∧
    (∀ c v, lifeCycleRefusal s p (.countRaise c v) = none) ∧
    (∀ t marks, lifeCycleRefusal s p (.restrict t marks) =
      if marks &&& ~~~ restrictAllowed (copyWord s (targetIndex t)) p = 0#8 then none else some .locked) ∧
    (∀ marks, lifeCycleRefusal s p (.setOption marks) = some .locked) ∧
    lifeCycleRefusal s p .close = some .locked := by
  simp [lifeCycleRefusal, (isClosed_iff s).mpr h]

/-- Settles O41: OPEN, then CLOSED kind by kind, a RESTRICT by R106's test of each mark it names. -/
theorem lifeCycleJudged : Obligations.LifeCycleJudged := by
  unfold Obligations.LifeCycleJudged
  intro s p k
  refine ⟨fun hopen => lifeCycleRefusal_of_open hopen p k, fun hclosed => ?_⟩
  obtain ⟨happend, hdelete, hadvance, hraise, hrestrict, hoption, hclose⟩ :=
    lifeCycleRefusal_of_closed hclosed p
  cases k with
  | append key e b => exact happend key e b
  | delete key e => exact hdelete key e
  | countAdvance c n => exact hadvance c n
  | countRaise c v => exact hraise c v
  | setOption marks => exact hoption marks
  | close => exact hclose
  | restrict t marks =>
    intro hmarks
    simp only [hrestrict, restrict_allowed_iff _ p hmarks]

end Sys2Proof.Machine
end

section
/-! FETCH-REPLY (R160): what a fetch that reaches its port does in each state of the slot, what the end of a READ's
burst leaves for it (R133, R134), and the two orders of a fetch and a burst end. -/

namespace Sys2Proof.Machine

/-! ### The fetch at its port (R155, R156, R160) -/

theorem exec_fetchReply_of_fetches {s : State} {bus : Bus} {p : Port} (h : Fetches s bus p .fetchReply) :
    exec (.fetchReply bus) s = .next (fetchReplyAt p s) := by
  obtain ⟨hreached, hselector⟩ := h
  have hruling : rulingSelector s .fetchReply p = .fetchReply := by
    cases p with
    | a => rfl
    | b => rfl
    | c => exact hselector rfl
  change Host.Outcome.next (fetchOn bus .fetchReply s) = _
  simp only [fetchOn, onBus, hreached, hruling, fetchEffect]

theorem fetchReplyAt_of_reply {s : State} {p : Port} {i : Item} (hslot : (s.port p).slot = .replyReady)
    (hreply : (s.port p).reply = some i) :
    fetchReplyAt p s =
      s.setPort p { s.port p with slot := .empty, reply := none, output := itemBytes i } := by
  simp only [fetchReplyAt, hslot, hreply]

theorem fetchReplyAt_of_working {s : State} {p : Port} {r : ReadInHand} (hslot : (s.port p).slot = .working r) :
    fetchReplyAt p s = output p (pendingBytes r) s := by
  simp only [fetchReplyAt, hslot]

theorem fetchReplyAt_of_empty {s : State} {p : Port} (hslot : (s.port p).slot = .empty) :
    fetchReplyAt p s = output p noneBytes s := by
  simp only [fetchReplyAt, hslot]

/-- The supply, Port C's address and its last selector are all that decides where a transaction goes and what it
fetches (R155, R156). -/
theorem fetches_congr {s t : State} (hpowered : t.powered = s.powered) (hadr : t.portCAdr = s.portCAdr)
    (hselector : t.lastSelector = s.lastSelector) (bus : Bus) (p : Port) (sel : Selector) :
    Fetches t bus p sel ↔ Fetches s bus p sel := by
  have hreached : reachedPort t bus = reachedPort s bus := by
    unfold reachedPort portCAddress
    rw [hpowered, hadr]
  simp only [Fetches, hreached, hselector]

theorem fetches_setPort (s : State) (q : Port) (x : PortState) (bus : Bus) (p : Port) (sel : Selector) :
    Fetches (s.setPort q x) bus p sel ↔ Fetches s bus p sel :=
  have same := sameBlocks_setPort s q x
  fetches_congr same.powered same.portCAdr same.lastSelector bus p sel

@[simp] theorem slot_output (s : State) (p : Port) (bytes : List Byte) :
    ((output p bytes s).port p).slot = (s.port p).slot := by
  simp [output]

theorem sameBlocks_output (s : State) (p : Port) (bytes : List Byte) : SameBlocks s (output p bytes s) :=
  sameBlocks_setPort s p _

theorem fetches_releaseArray (s : State) (bus : Bus) (p : Port) (sel : Selector) :
    Fetches (releaseArray s) bus p sel ↔ Fetches s bus p sel :=
  fetches_congr rfl rfl rfl bus p sel

/-! ### The end of the READ's burst (R133, R134) -/

/-- The DATA reply of the READ in hand, from the array and the entry its lookup found. -/
def readReply (m : Memory) (e : DirEntry) (r : ReadInHand) : Item :=
  ⟨.data, commandCode .read, r.tag, readDataBody e (entryPayload m e)⟩

/-- The state after the burst of a READ in hand ends: the array is free and the reply is in the buffer. -/
def afterBurst (s : State) (p : Port) (e : DirEntry) (r : ReadInHand) : State :=
  (releaseArray s).setPort p { s.port p with slot := .replyReady, reply := some (readReply s.array e r) }

theorem exec_readBurstEnd_of_working {s : State} {p : Port} {e : DirEntry} {r : ReadInHand}
    (hholder : s.arbiter.holder = .reader p e) (hslot : (s.port p).slot = .working r)
    (hword : e.location + 1 + e.w < 16384) : exec .readBurstEnd s = .next (afterBurst s p e r) := by
  change execReadBurstEnd s = _
  simp only [execReadBurstEnd, hholder, hslot, Config.arrayWords, hword, if_true]
  rfl

@[simp] theorem port_afterBurst (s : State) (p : Port) (e : DirEntry) (r : ReadInHand) :
    (afterBurst s p e r).port p =
      { s.port p with slot := .replyReady, reply := some (readReply s.array e r) } :=
  State.port_setPort_same _ p _

theorem fetches_afterBurst (s : State) (p q : Port) (e : DirEntry) (r : ReadInHand) (bus : Bus)
    (sel : Selector) : Fetches (afterBurst s p e r) bus q sel ↔ Fetches s bus q sel :=
  (fetches_setPort _ p _ bus q sel).trans (fetches_releaseArray s bus q sel)

/-- A fetch after the burst end returns the READ's reply (R160). -/
theorem exec_fetchReply_afterBurst {s : State} {bus : Bus} {p : Port} (h : Fetches s bus p .fetchReply)
    (e : DirEntry) (r : ReadInHand) :
    exec (.fetchReply bus) (afterBurst s p e r) = .next
      ((afterBurst s p e r).setPort p
        { (afterBurst s p e r).port p with
          slot := .empty, reply := none, output := itemBytes (readReply s.array e r) }) := by
  have hslot : ((afterBurst s p e r).port p).slot = .replyReady := by simp
  have hreply : ((afterBurst s p e r).port p).reply = some (readReply s.array e r) := by simp
  rw [exec_fetchReply_of_fetches ((fetches_afterBurst s p p e r bus _).mpr h), fetchReplyAt_of_reply hslot hreply]

/-- Settles O43: the fetch by the state of the slot; a fetch before the burst end leaves the slot WORKING and the
array as it was, so the burst end then leaves the same reply to a later fetch. -/
theorem fetchReplyAnswers : Obligations.FetchReplyAnswers := by
  unfold Obligations.FetchReplyAnswers
  intro bus p s hfetch
  have hexec := exec_fetchReply_of_fetches hfetch
  refine ⟨fun i hslot hreply => ?reply, fun r hslot => ?pending, fun hslot => ?none,
    fun e r hholder hslot hword => ?orders⟩
  case reply => rw [hexec, fetchReplyAt_of_reply hslot hreply]
  case pending => rw [hexec, fetchReplyAt_of_working hslot]; rfl
  case none => rw [hexec, fetchReplyAt_of_empty hslot]; rfl
  case orders =>
    have same := sameBlocks_output s p (pendingBytes r)
    have hfirst : exec (.fetchReply bus) s = .next (output p (pendingBytes r) s) := by
      rw [hexec, fetchReplyAt_of_working hslot]
    have hfetch' : Fetches (output p (pendingBytes r) s) bus p .fetchReply :=
      (fetches_setPort s p _ bus p _).mpr hfetch
    have hburst := exec_readBurstEnd_of_working (s := output p (pendingBytes r) s) (p := p) (e := e) (r := r)
      (by rw [same.arbiter, hholder]) (by rw [slot_output, hslot]) hword
    have hlater := exec_fetchReply_afterBurst hfetch' e r
    rw [same.array] at hlater
    exact ⟨_, _, _, readReply s.array e r, rfl, rfl,
      exec_readBurstEnd_of_working hholder hslot hword, exec_fetchReply_afterBurst hfetch e r,
      hfirst, rfl, hburst, hlater⟩

end Sys2Proof.Machine
end

section
/-! The step, and the pins, resets and first mount phase: each is one equation of its event. -/

namespace Sys2Proof.Machine

/-! ### The step (log entry 1) -/

/-- Settles O1: the queue is matched by its front. -/
theorem stepRunsFront : Obligations.StepRunsFront := by
  unfold Obligations.StepRunsFront
  intro c rest s
  rfl

/-- Settles O2: an empty queue matches the idle arm. -/
theorem emptyQueueIdles : Obligations.EmptyQueueIdles := by
  unfold Obligations.EmptyQueueIdles
  intro s h
  simp only [step, h]

/-- A step idles on an empty queue or runs the command at its front. -/
theorem step_cases {s t : State} (h : step s = .next t) :
    (s.pending = [] ∧ t = s) ∨
      ∃ c rest, s.pending = c :: rest ∧ exec c { s with pending := rest } = .next t := by
  unfold step at h
  split at h
  case h_1 hp => cases h; exact .inl ⟨hp, rfl⟩
  case h_2 c rest hp => exact .inr ⟨c, rest, hp, h⟩

/-- What every command keeps, and the queue does not bear on, every step keeps. -/
theorem step_keeps {P : State → Prop} (hqueue : ∀ s rest, P s → P { s with pending := rest })
    (hexec : ∀ c s t, P s → exec c s = .next t → P t) {s t : State} (hs : P s) (h : step s = .next t) : P t := by
  rcases step_cases h with ⟨-, rfl⟩ | ⟨c, rest, -, he⟩
  · exact hs
  · exact hexec c _ t (hqueue s rest hs) he

/-! ### One pulse (R2, Table 1-2) -/

/-- The cells of `c` that have moved up in `d`, as the effect of one pulse. -/
def effectTo (d : Cells) : PulseEffect := ⟨d.sound, d.weak⟩

theorem Cells.eq_of_marks {c d : Cells} (hw : c.weak = d.weak) (hs : c.sound = d.sound) : c = d := by
  cases c; cases d; cases hw; cases hs; rfl

/-- A move that Table 1-2 allows is what a pulse with the moved cells as its effect leaves. -/
theorem pulseCells_effectTo {c d : Cells} {mask : Word} (hd : d.weak &&& d.sound = 0#32)
    (hmove : ∀ i : Nat,
      (mask.getLsbD i = false → d.weak.getLsbD i = c.weak.getLsbD i ∧ d.sound.getLsbD i = c.sound.getLsbD i) ∧
      (c.sound.getLsbD i = true → d.sound.getLsbD i = true) ∧
      (c.weak.getLsbD i = true → (d.weak.getLsbD i || d.sound.getLsbD i) = true)) :
    pulseCells c mask (effectTo d) = d := by
  have bits : ∀ i, i < 32 →
      (pulseCells c mask (effectTo d)).weak.getLsbD i = d.weak.getLsbD i ∧
      (pulseCells c mask (effectTo d)).sound.getLsbD i = d.sound.getLsbD i := by
    intro i hi
    have hone : (d.weak.getLsbD i && d.sound.getLsbD i) = false := by
      simpa using congrArg (fun v => v.getLsbD i) hd
    obtain ⟨hmask, hsound, hweak⟩ := hmove i
    simp only [pulseCells, effectTo, BitVec.getLsbD_and, BitVec.getLsbD_or, BitVec.getLsbD_not, hi, decide_true,
      Bool.true_and]
    revert hone hmask hsound hweak
    cases c.weak.getLsbD i <;> cases c.sound.getLsbD i <;> cases mask.getLsbD i <;>
      cases d.weak.getLsbD i <;> cases d.sound.getLsbD i <;> decide
  have hw := BitVec.eq_of_getLsbD_eq (fun i hi => (bits i hi).1)
  have hs := BitVec.eq_of_getLsbD_eq (fun i hi => (bits i hi).2)
  exact Cells.eq_of_marks hw hs

/-- What a pulse does to one cell (R2): an unpulsed cell stays, SOUND stays SOUND, WEAK ends WEAK or SOUND. -/
theorem pulseCells_cell {c : Cells} (hc : c.weak &&& c.sound = 0#32) (mask : Word) (e : PulseEffect) (i : Nat) :
    (mask.getLsbD i = false →
      (pulseCells c mask e).weak.getLsbD i = c.weak.getLsbD i ∧
      (pulseCells c mask e).sound.getLsbD i = c.sound.getLsbD i) ∧
    (c.sound.getLsbD i = true →
      (pulseCells c mask e).sound.getLsbD i = true ∧ (pulseCells c mask e).weak.getLsbD i = false) ∧
    (c.weak.getLsbD i = true →
      (pulseCells c mask e).weak.getLsbD i ≠ (pulseCells c mask e).sound.getLsbD i) := by
  have hone : (c.weak.getLsbD i && c.sound.getLsbD i) = false := by
    simpa using congrArg (fun v => v.getLsbD i) hc
  by_cases hi : i < 32
  · simp only [pulseCells, BitVec.getLsbD_and, BitVec.getLsbD_or, BitVec.getLsbD_not, hi, decide_true,
      Bool.true_and]
    revert hone
    cases c.weak.getLsbD i <;> cases c.sound.getLsbD i <;> cases mask.getLsbD i <;>
      cases e.weak.getLsbD i <;> cases e.sound.getLsbD i <;> decide
  · have hout : ∀ v : Word, v.getLsbD i = false := fun v => BitVec.getLsbD_of_ge v i (by omega)
    simp [hout]

/-- Settles O15: cell by cell what a pulse does, and the moved cells as the effect that does it. -/
theorem pulseFollowsTable : Obligations.PulseFollowsTable := by
  unfold Obligations.PulseFollowsTable
  intro c mask hc
  refine ⟨fun e i => ?_, fun d hd hmove => ⟨effectTo d, pulseCells_effectTo hd hmove⟩⟩
  obtain ⟨hunpulsed, hsound, hweak⟩ := pulseCells_cell hc mask e i
  exact ⟨hunpulsed, hsound, hweak, pulseCells_disjoint c mask e⟩

/-! ### The pulse in progress (R3, R12) -/

/-- The array after a pulse that ends now is as R2 and R3 give it. -/
theorem pulsedTo_pulsedArray {s : State} (hwf : Memory.wf s.array = true)
    (hword : s.engine.seq.all (fun q => decide (q.word < 16384)) = true) (e : PulseEffect) :
    PulsedTo s e (pulsedArray s e) := by
  unfold PulsedTo pulsedArray
  cases hrun : runningSequence s with
  | none => rfl
  | some q =>
    have hseq : s.engine.seq = some q := by
      unfold runningSequence at hrun
      split at hrun
      · exact hrun
      · exact absurd hrun (by simp)
    have hq : q.word < 16384 := by simpa [hseq] using hword
    have hin : ¬ Config.arrayWords ≤ q.word := by simpa [Config.arrayWords] using hq
    by_cases hcut : q.cut = true
    · simp [hcut]
    · simp only [hcut, hin, or_self, if_false, Bool.false_eq_true]
      intro i
      exact (cellsAt_pulseWord hwf q.word (pulseMask q) e i).trans (by by_cases h : i = q.word <;> simp [h, pulseMask])

/-- Settles O17: the event of a device reset is one equation, field by field. -/
theorem resetClearsRam : Obligations.ResetClearsRam := by
  unfold Obligations.ResetClearsRam
  intro cut s hwf hword
  refine ⟨afterReset (pulsedArray s cut) s, rfl, rfl, pulsedTo_pulsedArray hwf hword cut, ?_⟩
  simp only [afterReset, State.reset, AuditScanner.reset, MountReport.empty, Engine.resting, true_and]
  intro p
  cases p <;> rfl

/-- Settles O18: RST_RELEASE while RST is low, and MOUNT_OPTIONS while its phase is due. -/
theorem mountBegins : Obligations.MountBegins := by
  unfold Obligations.MountBegins
  refine ⟨fun adr s hlow => ?_, fun s hdevice hpower hrst hphase => ?_⟩
  · change execRstRelease adr s = _
    simp [execRstRelease, hlow]
  · change execMountOptions s = _
    simp [execMountOptions, mountDue, hdevice, hpower, hrst, hphase, finishOptions, optionBlock,
      Config.optionWords]

/-- The mark of a cut pulse, in the words of the statement. -/
theorem markCut_eq (e : Engine) :
    markCut e = { e with
      seq := if e.state = .programming then e.seq.map (fun q => { q with cut := true }) else e.seq } := by
  unfold markCut
  split <;> rfl

/-- Settles O22: the three events of the pins. -/
theorem pinEvents : Obligations.PinEvents := by
  unfold Obligations.PinEvents
  refine ⟨fun s => rfl, fun cut s hwf hword => ?_, fun p s hactive => ?_⟩
  · exact ⟨_, rfl, pulsedTo_pulsedArray hwf hword cut, by simp only [markCut_eq]⟩
  · change execAlertPulseEnd p s = _
    simp [execAlertPulseEnd, hactive]

/-! ### The reset state -/

/-- Settles O3: every clause of the invariant evaluates on the reset state. -/
theorem resetMeetsInvariant : Obligations.ResetMeetsInvariant := by
  unfold Obligations.ResetMeetsInvariant
  refine ⟨by decide, by decide, ⟨by decide, by decide, by decide⟩, by decide, by decide, by decide,
    fun hphase => absurd rfl hphase, fun hready => absurd hready (by decide),
    ⟨by decide, by decide, by decide, by decide⟩, by decide, by decide, by decide⟩

end Sys2Proof.Machine
end

section
/-! SEND-FRAME (R155 to R159): a row is its bytes, what a frame that is not taken or is of bad form does, and the
state on which a taken command runs. -/

namespace Sys2Proof.Machine

/-! ### Rows and bytes (Table 10-3) -/

/-- A code that names a command is that command's (Table 12-3). -/
theorem commandCode_of_commandOf {code : Byte} {cmd : Command} (h : commandOf code = some cmd) :
    commandCode cmd = code := by
  simpa using List.find?_some h

theorem commandOf_eq_none {code : Byte} (h : ∀ cmd : Command, commandCode cmd ≠ code) : commandOf code = none := by
  cases hcmd : commandOf code with
  | none => rfl
  | some cmd => exact absurd (commandCode_of_commandOf hcmd) (h cmd)

theorem frameRow_frameBytes_command {cmd : Command} {bus : Bus} {f : Frame}
    (h : (!frameIncomplete (frameBytes (commandCode cmd) f)) = true) :
    frameRow bus (frameBytes (commandCode cmd) f) = commandRow bus f cmd := by
  have hcomplete : frameIncomplete (commandCode cmd :: f.tag :: f.len :: f.rest) = false := by
    simpa [frameBytes] using h
  simp [frameRow, frameBytes, hcomplete, commandOf_commandCode]

/-- Settles O23: a command's row by its code, the two other rows by their own tests. -/
theorem frameRowsRoundTrip : Obligations.FrameRowsRoundTrip := by
  unfold Obligations.FrameRowsRoundTrip
  intro i bus bytes hfit hrow
  cases i
  case incompleteFrame =>
    cases hrow
    have hincomplete : frameIncomplete bytes = true := hfit
    unfold frameRow
    split <;> simp [hincomplete]
  case unknownCommand code f =>
    cases hrow
    have hfit' : commandOf code = none ∧ frameIncomplete (frameBytes code f) = false := by
      simpa [Instr.wellFormed] using hfit
    obtain ⟨hcode, hcomplete⟩ := hfit'
    unfold frameBytes at hcomplete ⊢
    simp [frameRow, hcode, hcomplete]
  all_goals cases hrow
  all_goals exact frameRow_frameBytes_command hfit

/-- A command's row runs the command on the frame's bytes. -/
theorem exec_commandRow (bus : Bus) (f : Frame) (cmd : Command) (s : State) :
    exec (commandRow bus f cmd) s = .next (sendCommand cmd bus f (handleCommand cmd) s) := by
  cases cmd <;> rfl

/-- A frame is handled by its own command code alone. -/
theorem receive_congr_handler {h h' : Byte → Handler} {code : Byte} (hcode : h code = h' code) (p : Port)
    (rest : List Byte) (s : State) : receive p (code :: rest) h s = receive p (code :: rest) h' s := by
  unfold receive
  split
  · next heq => cases heq; rw [hcode]
  · rfl

theorem sendFrame_congr_handler {h h' : Byte → Handler} {code : Byte} (hcode : h code = h' code) (bus : Bus)
    (rest : List Byte) (s : State) : sendFrame bus (code :: rest) h s = sendFrame bus (code :: rest) h' s := by
  unfold sendFrame onBus
  split
  · rfl
  · exact receive_congr_handler hcode _ rest s

/-- A command's row is what its bytes say. -/
theorem sendCommand_eq_sendFrame (cmd : Command) (bus : Bus) (f : Frame) (s : State) :
    sendCommand cmd bus f (handleCommand cmd) s = sendFrame bus (frameBytes (commandCode cmd) f) handleCode s :=
  sendFrame_congr_handler (by simp [handleCode, commandOf_commandCode]) bus _ s

/-- Settles O24: each row of `frameRow` hands its bytes to `sendFrame`. -/
theorem frameMeaningIsItsBytes : Obligations.FrameMeaningIsItsBytes := by
  unfold Obligations.FrameMeaningIsItsBytes
  intro bus bytes s
  have hdiscard : exec (.frameDiscard bus bytes) s = .next (sendFrame bus bytes handleCode s) := rfl
  rw [hdiscard]
  unfold frameRow
  split
  · split
    · rfl
    · split
      · next hcode =>
        rw [exec_commandRow, sendCommand_eq_sendFrame, frameBytes, commandCode_of_commandOf hcode]
      · rfl
  · rfl

/-! ### Frames that are not taken (R157, R158) -/

/-- A frame is incomplete below three bytes, and below its length byte's count when that is in range (R157). -/
theorem frameIncomplete_iff (bytes : List Byte) :
    frameIncomplete bytes = true ↔
      bytes.length < 3 ∨ (byteAt bytes 2 ≤ 250 ∧ bytes.length < 4 + byteAt bytes 2) := by
  match bytes with
  | [] => simp [frameIncomplete]
  | [_] => simp [frameIncomplete]
  | [_, _] => simp [frameIncomplete]
  | _ :: _ :: len :: rest =>
    simp only [frameIncomplete, byteAt, Bool.and_eq_true, decide_eq_true_eq, List.length_cons, List.getD_cons_succ,
      List.getD_cons_zero]
    omega

theorem sendFrame_reached {s : State} {bus : Bus} {p : Port} (h : reachedPort s bus = some p) (bytes : List Byte)
    (handler : Byte → Handler) : sendFrame bus bytes handler s = receive p bytes handler s := by
  simp [sendFrame, onBus, h]

/-- A complete frame at a WORKING slot is discarded (R158). -/
theorem takeComplete_working {s : State} {p : Port} (hs : slotFree (s.port p) = false) (code tag len : Byte)
    (rest : List Byte) (handler : Handler) : takeComplete p code tag len rest handler s = setDiscard p s := by
  unfold slotFree at hs
  cases hslot : (s.port p).slot with
  | working r => simp [takeComplete, hslot]
  | empty => simp [hslot] at hs
  | replyReady => simp [hslot] at hs

@[simp] theorem slotFree_noteSendFrame (p r : Port) (s : State) :
    slotFree ((noteSendFrame p s).port r) = slotFree (s.port r) := by
  simp [port_noteSendFrame, slotFree]

theorem receive_working {s : State} {p : Port} (hs : slotFree (s.port p) = false) {bytes : List Byte}
    (hcomplete : frameIncomplete bytes = false) (handler : Byte → Handler) :
    receive p bytes handler s = setDiscard p (noteSendFrame p s) := by
  match bytes, hcomplete with
  | code :: tag :: len :: rest, hcomplete =>
    rw [receive_complete hcomplete, takeComplete_working (by rwa [slotFree_noteSendFrame])]

/-- Settles O25: the two flags, each beside what the transaction itself does. -/
theorem framesNotTaken : Obligations.FramesNotTaken := by
  unfold Obligations.FramesNotTaken
  intro bus p bytes s hreached
  rw [← frameIncomplete_iff]
  refine ⟨fun hincomplete => ?_, fun hcomplete hworking => ?_⟩
  · change Host.Outcome.next (sendFrame bus bytes handleCode s) = _
    rw [sendFrame_reached hreached, receive_incomplete hincomplete]
    cases p <;> rfl
  · change Host.Outcome.next (sendFrame bus bytes handleCode s) = _
    rw [sendFrame_reached hreached, receive_working hworking (by simpa using hcomplete)]
    cases p <;> rfl

/-! ### The state on which a taken command runs (R158) -/

/-- `s` with the transaction noted and the unfetched reply of port `p` discarded: what a taken frame's command
starts from. -/
def State.taken (s : State) (p : Port) : State := dropReply p (noteSendFrame p s)

/-- Taking a frame changes its own port and Port C's last selector alone. -/
@[simp] theorem State.taken_frame (s : State) (p : Port) :
    (s.taken p).array = s.array ∧ (s.taken p).powered = s.powered ∧ (s.taken p).rstLow = s.rstLow ∧
    (s.taken p).pgmEn = s.pgmEn ∧ (s.taken p).portCAdr = s.portCAdr ∧ (s.taken p).device = s.device ∧
    (s.taken p).mount = s.mount ∧ (s.taken p).policy = s.policy ∧ (s.taken p).directory = s.directory ∧
    (s.taken p).counters = s.counters ∧ (s.taken p).log = s.log ∧ (s.taken p).repair = s.repair ∧
    (s.taken p).engine = s.engine ∧ (s.taken p).jobs = s.jobs ∧ (s.taken p).arbiter = s.arbiter ∧
    (s.taken p).audit = s.audit ∧ (s.taken p).pending = s.pending := by
  cases p <;> exact ⟨rfl, rfl, rfl, rfl, rfl, rfl, rfl, rfl, rfl, rfl, rfl, rfl, rfl, rfl, rfl, rfl, rfl⟩

theorem State.port_taken_same (s : State) (p : Port) :
    (s.taken p).port p = { s.port p with reply := none, output := if p ≠ .c then [] else (s.port p).output } := by
  cases p <;> rfl

/-- What a taken frame leaves its port's queues, counts, line and flags at. -/
@[simp] theorem State.port_taken_frame (s : State) (p : Port) :
    ((s.taken p).port p).slot = (s.port p).slot ∧ ((s.taken p).port p).results = (s.port p).results ∧
    ((s.taken p).port p).outstanding = (s.port p).outstanding ∧ ((s.taken p).port p).ring = (s.port p).ring ∧
    ((s.taken p).port p).wrapped = (s.port p).wrapped ∧ ((s.taken p).port p).subs = (s.port p).subs ∧
    ((s.taken p).port p).mask = (s.port p).mask ∧ ((s.taken p).port p).pulseActive = (s.port p).pulseActive ∧
    ((s.taken p).port p).lineLow = (s.port p).lineLow ∧ ((s.taken p).port p).discard = (s.port p).discard ∧
    ((s.taken p).port p).truncated = (s.port p).truncated := by
  rw [State.port_taken_same]
  exact ⟨rfl, rfl, rfl, rfl, rfl, rfl, rfl, rfl, rfl, rfl, rfl⟩

@[simp] theorem copyWord_taken (s : State) (p : Port) (i : Nat) : copyWord (s.taken p) i = copyWord s i :=
  copyWord_congr (by simp) i

@[simp] theorem answer_taken (s : State) (p : Port) (cmd tag : Byte) (code : Code) (body : List Byte) :
    answer p cmd tag code body (s.taken p) = s.answered p cmd tag code body :=
  answer_dropReply s p cmd tag code body

/-- A reply after the port's state was replaced is the answered state of the replaced port. -/
theorem answer_setPort_taken (s : State) (p : Port) (g : PortState → PortState) (cmd tag : Byte) (code : Code)
    (body : List Byte)
    (hg : ∀ q : PortState, g { q with reply := none, output := if p ≠ .c then [] else q.output } =
      { g q with reply := none, output := if p ≠ .c then [] else q.output })
    (ho : ∀ q : PortState, (g q).output = q.output) :
    answer p cmd tag code body ((s.taken p).setPort p (g ((s.taken p).port p))) =
      (s.setPort p (g (s.port p))).answered p cmd tag code body := by
  rw [State.port_taken_same, hg]
  cases p <;> simp [answer, State.taken, State.answered, noteSendFrame, dropReply, State.setPort, State.port, ho]

/-- A frame the host builds runs its command on the taken state. -/
theorem exec_goodFrame {s : State} {bus : Bus} {p : Port} (h : Takes s bus p) (cmd : Command) (tag : Byte)
    {params : List Byte} (hlen : params.length ≤ 250) :
    exec (commandRow bus (goodFrame cmd tag params) cmd) s = .next (handleCommand cmd p tag params (s.taken p)) := by
  rw [exec_commandRow, sendCommand_taken h cmd tag params hlen]
  rfl

/-! ### Taken frames refused for their form, their code or their parameters (R158, R159, R113, R23) -/

/-- A taken frame with a form fault is answered FRAME_ERROR (R158). -/
theorem receive_fault {s : State} {p : Port} (hs : slotFree (s.port p) = true) {code : Byte} {f : Frame}
    (hcomplete : frameIncomplete (frameBytes code f) = false)
    (hfault : frameFault code f.tag f.len f.rest = true) (handler : Byte → Handler) :
    receive p (frameBytes code f) handler s = s.answered p code f.tag .frameError [] := by
  have htaken : slotFree ((noteSendFrame p s).port p) = true := by rwa [slotFree_noteSendFrame]
  rw [frameBytes, receive_complete (by exact hcomplete), ← answer_dropReply]
  unfold slotFree at htaken
  cases hslot : ((noteSendFrame p s).port p).slot with
  | working r => simp [hslot] at htaken
  | empty => simp [takeComplete, takeComplete.judgeForm, hslot, hfault]
  | replyReady => simp [takeComplete, takeComplete.judgeForm, hslot, hfault]

/-- The form faults of R158 leave a frame complete, and are what `frameFault` judges. -/
theorem frameFault_of_faults {code : Byte} {f : Frame}
    (h : 250 < f.len.toNat ∨ f.len.toNat + 1 < f.rest.length ∨
      (f.len.toNat + 1 = f.rest.length ∧
        f.rest.getD f.len.toNat 0#8 ≠ crc8 (code :: f.tag :: f.len :: f.rest.take f.len.toNat))) :
    frameIncomplete (frameBytes code f) = false ∧ frameFault code f.tag f.len f.rest = true := by
  constructor
  · simp only [frameIncomplete, frameBytes, Bool.and_eq_false_iff, decide_eq_false_iff_not]
    omega
  · simp only [frameFault, Bool.or_eq_true, decide_eq_true_eq, bne_iff_ne]
    rcases h with h | h | ⟨-, h⟩
    · exact .inl (.inl h)
    · exact .inl (.inr h)
    · exact .inr h

/-- A frame of good form built for any code, at a port that takes it, runs that code's handler. -/
theorem sendFrame_goodForm {s : State} {bus : Bus} {p : Port} (h : Takes s bus p) (code tag : Byte)
    {params : List Byte} (hlen : params.length ≤ 250) (handler : Byte → Handler) :
    sendFrame bus (frameBytes code ⟨tag, BitVec.ofNat 8 params.length,
        params ++ [crc8 (code :: tag :: BitVec.ofNat 8 params.length :: params)]⟩) handler s =
      handler code p tag params (s.taken p) := by
  have hl : (BitVec.ofNat 8 params.length).toNat = params.length := by rw [BitVec.toNat_ofNat]; omega
  rw [sendFrame_reached h.1, frameBytes, receive_complete (by simp [frameIncomplete, hl]),
    takeComplete_good (by rw [slotFree_noteSendFrame]; exact h.2) (by simp [frameFault, hl, hlen])]
  simp [hl, State.taken]

/-- Settles O26: the form is judged first, then a code outside Table 12-3 is refused by the device state. -/
theorem takenFrameRefused : Obligations.TakenFrameRefused := by
  unfold Obligations.TakenFrameRefused
  intro bus p s htakes
  refine ⟨fun cmd f hfaults => ?_, fun code f hcode hfaults => ?_, fun code tag params hcode hlen => ?_⟩
  · obtain ⟨hcomplete, hfault⟩ := frameFault_of_faults hfaults
    rw [exec_commandRow, sendCommand, sendFrame_reached htakes.1, receive_fault htakes.2 hcomplete hfault]
  · obtain ⟨hcomplete, hfault⟩ := frameFault_of_faults hfaults
    change Host.Outcome.next (sendFrame bus (frameBytes code f) handleCode s) = _
    rw [sendFrame_reached htakes.1, receive_fault htakes.2 hcomplete hfault]
  · change Host.Outcome.next (sendFrame bus (frameBytes code _) handleCode s) = _
    rw [sendFrame_goodForm htakes code tag hlen, handleCode, commandOf_eq_none hcode]
    simp [handleUnknown]

/-- While MOUNTING each command but STATUS is refused before its parameters are looked at (R113). -/
theorem handleCommand_mounting {s : State} (h : s.device = .mounting) {cmd : Command} (hcmd : cmd ≠ .status)
    (p : Port) (tag : Byte) (params : List Byte) :
    handleCommand cmd p tag params s = answer p (commandCode cmd) tag .mounting [] s := by
  cases cmd
  case status => exact absurd rfl hcmd
  case info | list | countRead | policyRead | identify | auditReport =>
    simp [handleCommand, handleQuery, infoAnswer, listAnswer, countReadAnswer, policyReadAnswer, identifyAnswer,
      auditReportAnswer, queryAnswer, h]
  case append | delete | countAdvance | countRaise | restrict | setOption | close =>
    simp [handleCommand, handleJob, acceptanceRefusal, h]
  case read => simp [handleCommand, handleRead, h]
  case subscribe => simp [handleCommand, handleSubscribe, h]
  case unsubscribe => simp [handleCommand, handleUnsubscribe, h]
  case setAlertMask => simp [handleCommand, handleSetAlertMask, h]
  case portReset => simp [handleCommand, handlePortReset, h]
  case audit => simp [handleCommand, handleAudit, h]

/-- Settles O27: the command runs on the taken state, where it answers MOUNTING. -/
theorem mountingRefusesCommands : Obligations.MountingRefusesCommands := by
  unfold Obligations.MountingRefusesCommands
  intro bus p s cmd tag params htakes hdevice hcmd hlen
  rw [exec_goodFrame htakes cmd tag hlen, handleCommand_mounting (by simpa using hdevice) hcmd, answer_taken]

end Sys2Proof.Machine
end

section
/-! Parameters (Table 12-6, R174): the parsers read back what a host sends and refuse every other length or range. -/

namespace Sys2Proof.Machine

/-! ### Bytes and numbers -/

@[simp] theorem length_leBytes (n k : Nat) : (leBytes n k).length = k := by
  induction k generalizing n with
  | zero => rfl
  | succ k ih => simp [leBytes, ih]

theorem leNat_leBytes {n k : Nat} (h : n < 256 ^ k) : leNat (leBytes n k) = n := by
  induction k generalizing n with
  | zero => simp at h; simp [leBytes, leNat, h]
  | succ k ih =>
    have hdiv : n / 256 < 256 ^ k := by
      rw [Nat.div_lt_iff_lt_mul (by omega)]
      rwa [Nat.pow_succ] at h
    simp only [leBytes, leNat, ih hdiv, BitVec.toNat_ofNat]
    omega

theorem leBytes_two (n : Nat) : leBytes n 2 = [BitVec.ofNat 8 n, BitVec.ofNat 8 (n / 256)] := rfl

theorem leBytes_three (n : Nat) :
    leBytes n 3 = [BitVec.ofNat 8 n, BitVec.ofNat 8 (n / 256), BitVec.ofNat 8 (n / 256 / 256)] := rfl

/-- Two bytes as a number. -/
theorem leNat_pair (b0 b1 : Byte) : leNat [b0, b1] = b0.toNat + 256 * b1.toNat := by simp [leNat]

theorem toNat_ofNat_byte {n : Nat} (h : n < 256) : (BitVec.ofNat 8 n).toNat = n := by
  rw [BitVec.toNat_ofNat]; omega

/-! ### Parameters out of form are refused (R23, R131, R143, R174) -/

theorem parseNothing_eq_none {ps : List Byte} (h : (ps.length == 0) = false) : parseNothing ps = none := by
  cases ps with
  | nil => simp at h
  | cons _ _ => rfl

theorem parseKey_eq_none {ps : List Byte} (h : (ps.length == 2 && keyFits ps) = false) : parseKey ps = none := by
  match ps with
  | [] => rfl
  | [_] => rfl
  | [b0, b1] =>
    have hrange : ¬ (1 ≤ b0.toNat + 256 * b1.toNat ∧ b0.toNat + 256 * b1.toNat ≤ 4094) := by
      simpa [keyFits, pairAt, byteAt] using h
    simp only [parseKey, leNat_pair, hrange, if_false]
  | _ :: _ :: _ :: _ => rfl

theorem parseCounter_eq_none {ps : List Byte} (h : (ps.length == 1 && decide (byteAt ps 0 ≤ 15)) = false) :
    parseCounter ps = none := by
  match ps with
  | [] => rfl
  | [c] =>
    have hrange : ¬ c.toNat ≤ 15 := by simpa [byteAt] using h
    simp only [parseCounter, hrange, if_false]
  | _ :: _ :: _ => rfl

theorem targetOf_eq_none {b : Byte} (h : ¬ b.toNat ≤ 31) : targetOf b = none := by
  have hgroup : ¬ b.toNat ≤ 15 := by omega
  simp only [targetOf, h, hgroup, if_false]

theorem parseTarget_eq_none {ps : List Byte} (h : (ps.length == 1 && decide (byteAt ps 0 ≤ 31)) = false) :
    parseTarget ps = none := by
  match ps with
  | [] => rfl
  | [b] => exact targetOf_eq_none (by simpa [byteAt] using h)
  | _ :: _ :: _ => rfl

theorem byte_eq_iff {n : Nat} (b : Byte) (h : n < 256) : b = BitVec.ofNat 8 n ↔ b.toNat = n := by
  rw [BitVec.toNat_eq, toNat_ofNat_byte h]

theorem parseSubscription_eq_none {ps : List Byte} (h : paramsFit.subscriptionFits ps = false) :
    parseSubscription ps = none := by
  match ps with
  | [] => rfl
  | [_] => rfl
  | [_, _] => rfl
  | [kind, i0, i1] =>
    have hkey : ¬ (kind = 0x00#8 ∧ 1 ≤ i0.toNat + 256 * i1.toNat ∧ i0.toNat + 256 * i1.toNat ≤ 4094) := by
      rw [byte_eq_iff (n := 0) kind (by omega)]
      rintro ⟨hk, hr⟩
      simp [paramsFit.subscriptionFits, byteAt, pairAt, hk, hr] at h
    have hcounter : ¬ (kind = 0x01#8 ∧ i0.toNat + 256 * i1.toNat ≤ 15) := by
      rw [byte_eq_iff (n := 1) kind (by omega)]
      rintro ⟨hk, hr⟩
      simp [paramsFit.subscriptionFits, byteAt, pairAt, hk, hr] at h
    simp only [parseSubscription, leNat_pair, hkey, hcounter, if_false]
  | _ :: _ :: _ :: _ :: _ => rfl

theorem extract_high_eq_zero_iff (m : Byte) : m.extractLsb' 6 2 = 0#2 ↔ m.toNat < 64 := by
  rw [BitVec.toNat_eq, BitVec.extractLsb'_toNat]
  simp only [BitVec.toNat_ofNat, Nat.shiftRight_eq_div_pow]
  omega

theorem parseMask_eq_none {ps : List Byte} (h : (ps.length == 1 && decide (byteAt ps 0 < 64)) = false) :
    parseMask ps = none := by
  match ps with
  | [] => rfl
  | [m] =>
    have hrange : ¬ m.toNat < 64 := by simpa [byteAt] using h
    simp only [parseMask, extract_high_eq_zero_iff, hrange, if_false]
  | _ :: _ :: _ => rfl

theorem flagOf_eq_none {b : Byte} (h : ¬ b.toNat ≤ 1) : flagOf b = none := by
  have h0 : ¬ b = 0x00#8 := by rw [byte_eq_iff (n := 0) b (by omega)]; omega
  have h1 : ¬ b = 0x01#8 := by rw [byte_eq_iff (n := 1) b (by omega)]; omega
  simp only [flagOf, h0, h1, if_false]

theorem parseTouchUp_eq_none {ps : List Byte} (h : (ps.length == 1 && decide (byteAt ps 0 ≤ 1)) = false) :
    parseTouchUp ps = none := by
  match ps with
  | [] => rfl
  | [b] => exact flagOf_eq_none (by simpa [byteAt] using h)
  | _ :: _ :: _ => rfl

theorem expectedOf_eq_none {present : Byte} (h : ¬ present.toNat ≤ 1) (seq : List Byte) :
    expectedOf present seq = none := by
  simp [expectedOf, flagOf_eq_none h]

/-- The key and the expected-present byte of a record job, one of them out of range. -/
theorem key_or_expected_eq_none {k0 k1 present : Byte} (seq : List Byte)
    (h : ¬ ((1 ≤ k0.toNat + 256 * k1.toNat ∧ k0.toNat + 256 * k1.toNat ≤ 4094) ∧ present.toNat ≤ 1)) :
    parseKey [k0, k1] = none ∨ expectedOf present seq = none := by
  by_cases hkey : 1 ≤ k0.toNat + 256 * k1.toNat ∧ k0.toNat + 256 * k1.toNat ≤ 4094
  · exact .inr (expectedOf_eq_none (fun hp => h ⟨hkey, hp⟩) seq)
  · refine .inl (parseKey_eq_none ?_)
    simpa [keyFits, pairAt, byteAt] using hkey

theorem parseAppend_eq_none {ps : List Byte} (h : paramsFit .append ps = false) : parseAppend ps = none := by
  match ps with
  | [] => rfl
  | [_] => rfl
  | [_, _] => rfl
  | [_, _, _] => rfl
  | [_, _, _, _] => rfl
  | [_, _, _, _, _] => rfl
  | [_, _, _, _, _, _] => rfl
  | k0 :: k1 :: present :: e0 :: e1 :: e2 :: e3 :: payload =>
    by_cases hlen : payload.length ≤ 236
    · have hfields : ¬ ((1 ≤ k0.toNat + 256 * k1.toNat ∧ k0.toNat + 256 * k1.toNat ≤ 4094) ∧
          present.toNat ≤ 1) := by
        rintro ⟨hkey, hpresent⟩
        simp [paramsFit, keyFits, byteAt, pairAt, hkey, hpresent] at h
        omega
      rcases key_or_expected_eq_none [e0, e1, e2, e3] hfields with hnone | hnone
      · simp [parseAppend, hnone]
      · simp only [parseAppend, hnone]
        split <;> simp_all
    · simp only [parseAppend, hlen, if_false]
      split <;> rfl

theorem parseDelete_eq_none {ps : List Byte} (h : paramsFit .delete ps = false) : parseDelete ps = none := by
  match ps with
  | [] => rfl
  | [_] => rfl
  | [_, _] => rfl
  | [_, _, _] => rfl
  | [_, _, _, _] => rfl
  | [_, _, _, _, _] => rfl
  | [_, _, _, _, _, _] => rfl
  | [k0, k1, present, e0, e1, e2, e3] =>
    have hfields : ¬ ((1 ≤ k0.toNat + 256 * k1.toNat ∧ k0.toNat + 256 * k1.toNat ≤ 4094) ∧
        present.toNat ≤ 1) := by
      rintro ⟨hkey, hpresent⟩
      simp [paramsFit, keyFits, byteAt, pairAt, hkey, hpresent] at h
    rcases key_or_expected_eq_none [e0, e1, e2, e3] hfields with hnone | hnone
    · simp [parseDelete, hnone]
    · simp only [parseDelete, hnone]
      split <;> simp_all
  | _ :: _ :: _ :: _ :: _ :: _ :: _ :: _ :: _ => rfl

theorem parseCountAdvance_eq_none {ps : List Byte} (h : paramsFit .countAdvance ps = false) :
    parseCountAdvance ps = none := by
  match ps with
  | [] => rfl
  | [_] => rfl
  | [_, _] => rfl
  | [c, n0, n1] =>
    have hrange : ¬ (c.toNat ≤ 15 ∧ 1 ≤ n0.toNat + 256 * n1.toNat) := by
      rintro ⟨hc, hn⟩
      simp [paramsFit, byteAt, pairAt, hc, hn] at h
    simp only [parseCountAdvance, leNat_pair, hrange, if_false]
  | _ :: _ :: _ :: _ :: _ => rfl

theorem parseCountRaise_eq_none {ps : List Byte} (h : paramsFit .countRaise ps = false) :
    parseCountRaise ps = none := by
  match ps with
  | [] => rfl
  | [_] => rfl
  | [_, _] => rfl
  | [_, _, _] => rfl
  | [c, v0, v1, v2] =>
    have hrange : ¬ c.toNat ≤ 15 := by simpa [paramsFit, byteAt] using h
    simp only [parseCountRaise, hrange, if_false]
  | _ :: _ :: _ :: _ :: _ :: _ => rfl

/-- Bit 7 of a byte is clear exactly below 128. -/
theorem getLsbD_seven_eq_false_iff (b : Byte) : b.getLsbD 7 = false ↔ b.toNat < 128 := by
  have hmsb : b.getLsbD 7 = b.msb := (BitVec.msb_eq_getLsbD_last b).symm
  rw [hmsb, BitVec.msb_eq_decide]
  simp

theorem byte_ne_zero_iff (b : Byte) : b ≠ 0#8 ↔ 1 ≤ b.toNat := by
  rw [ne_eq, byte_eq_iff (n := 0) b (by omega)]
  omega

theorem parseRestrict_eq_none {ps : List Byte} (h : paramsFit .restrict ps = false) : parseRestrict ps = none := by
  match ps with
  | [] => rfl
  | [_] => rfl
  | [t, marks] =>
    by_cases ht : t.toNat ≤ 31
    · have hrange : ¬ (marks.getLsbD 7 = false ∧ marks ≠ 0#8) := by
        rw [getLsbD_seven_eq_false_iff, byte_ne_zero_iff]
        rintro ⟨hlow, hne⟩
        simp [paramsFit, byteAt, ht, hne] at h
        omega
      simp only [parseRestrict, hrange, if_false]
      split <;> rfl
    · simp [parseRestrict, targetOf_eq_none ht]
  | _ :: _ :: _ :: _ => rfl

theorem extract_five_eq_zero_iff (m : Byte) : m.extractLsb' 5 3 = 0#3 ↔ m.toNat < 32 := by
  rw [BitVec.toNat_eq, BitVec.extractLsb'_toNat]
  simp only [BitVec.toNat_ofNat, Nat.shiftRight_eq_div_pow]
  omega

theorem parseSetOption_eq_none {ps : List Byte} (h : paramsFit .setOption ps = false) :
    parseSetOption ps = none := by
  match ps with
  | [] => rfl
  | [marks] =>
    have hrange : ¬ (marks.toNat < 32 ∧ marks ≠ 0#8) := by
      rw [byte_ne_zero_iff]
      rintro ⟨hlow, hne⟩
      simp [paramsFit, byteAt, hne] at h
      omega
    simp only [parseSetOption, extract_five_eq_zero_iff, hrange, if_false]
  | _ :: _ :: _ => rfl

theorem parseClose_eq_none {ps : List Byte} (h : paramsFit .close ps = false) : parseClose ps = none := by
  cases ps with
  | nil => simp [paramsFit] at h
  | cons _ _ => rfl

/-- Each command of a READY part, and STATUS in both device states, refuses parameters out of form (R23, R131). -/
theorem handleCommand_badRequest {s : State} {cmd : Command} (hready : s.device = .ready ∨ cmd = .status)
    {ps : List Byte} (h : paramsFit cmd ps = false) (p : Port) (tag : Byte) :
    handleCommand cmd p tag ps s = answer p (commandCode cmd) tag .badRequest [] s := by
  by_cases hstatus : cmd = .status
  · subst hstatus
    simp only [handleCommand, handleQuery, statusAnswer, parseNothing_eq_none (ps := ps) h]
  have hdevice : s.device ≠ .mounting := by
    rcases hready with hr | hs
    · simp [hr]
    · exact absurd hs hstatus
  cases cmd
  case status => exact absurd rfl hstatus
  case info | list =>
    simp [handleCommand, handleQuery, infoAnswer, listAnswer, queryAnswer, hdevice, parseKey_eq_none (ps := ps) h]
  case countRead =>
    simp [handleCommand, handleQuery, countReadAnswer, queryAnswer, hdevice, parseCounter_eq_none (ps := ps) h]
  case policyRead =>
    simp [handleCommand, handleQuery, policyReadAnswer, queryAnswer, hdevice, parseTarget_eq_none (ps := ps) h]
  case identify | auditReport =>
    simp [handleCommand, handleQuery, identifyAnswer, auditReportAnswer, queryAnswer, hdevice,
      parseNothing_eq_none (ps := ps) h]
  case read => simp [handleCommand, handleRead, hdevice, parseKey_eq_none (ps := ps) h]
  case subscribe => simp [handleCommand, handleSubscribe, hdevice, parseSubscription_eq_none (ps := ps) h]
  case unsubscribe => simp [handleCommand, handleUnsubscribe, hdevice, parseSubscription_eq_none (ps := ps) h]
  case setAlertMask => simp [handleCommand, handleSetAlertMask, hdevice, parseMask_eq_none (ps := ps) h]
  case portReset => simp [handleCommand, handlePortReset, hdevice, parseNothing_eq_none (ps := ps) h]
  case audit => simp [handleCommand, handleAudit, hdevice, parseTouchUp_eq_none (ps := ps) h]
  case append => simp [handleCommand, handleJob, acceptanceRefusal, hdevice, parseAppend_eq_none h]
  case delete => simp [handleCommand, handleJob, acceptanceRefusal, hdevice, parseDelete_eq_none h]
  case countAdvance => simp [handleCommand, handleJob, acceptanceRefusal, hdevice, parseCountAdvance_eq_none h]
  case countRaise => simp [handleCommand, handleJob, acceptanceRefusal, hdevice, parseCountRaise_eq_none h]
  case restrict => simp [handleCommand, handleJob, acceptanceRefusal, hdevice, parseRestrict_eq_none h]
  case setOption => simp [handleCommand, handleJob, acceptanceRefusal, hdevice, parseSetOption_eq_none h]
  case close => simp [handleCommand, handleJob, acceptanceRefusal, hdevice, parseClose_eq_none h]

/-- Settles O28: the command runs on the taken state, where its parser refuses the parameters. -/
theorem badParametersRefused : Obligations.BadParametersRefused := by
  unfold Obligations.BadParametersRefused
  intro bus p s cmd tag params htakes hready hlen hfit
  rw [exec_goodFrame htakes cmd tag hlen, handleCommand_badRequest (by simpa using hready) hfit, answer_taken]

/-! ### Parameters in range are read back (Table 12-6) -/

theorem parseKey_leBytes {key : Nat} (h1 : 1 ≤ key) (h2 : key ≤ 4094) : parseKey (leBytes key 2) = some key := by
  have hback : leNat (leBytes key 2) = key := leNat_leBytes (by omega)
  change (if 1 ≤ leNat (leBytes key 2) ∧ leNat (leBytes key 2) ≤ 4094 then some (leNat (leBytes key 2)) else none) = _
  rw [hback, if_pos ⟨h1, h2⟩]

theorem parseCounter_ofNat {c : Nat} (h : c ≤ 15) : parseCounter [BitVec.ofNat 8 c] = some c := by
  simp only [parseCounter, toNat_ofNat_byte (n := c) (by omega), h, if_true]

theorem targetOf_targetByte {t : PolicyTarget} (h : targetInRange t = true) : targetOf (targetByte t) = some t := by
  cases t with
  | group g =>
    have hg : g ≤ 15 := by simpa [targetInRange] using h
    simp only [targetOf, targetByte, toNat_ofNat_byte (n := g) (by omega), hg, if_true]
  | counter c =>
    have hc : c ≤ 15 := by simpa [targetInRange] using h
    simp only [targetOf, targetByte, toNat_ofNat_byte (n := 16 + c) (by omega)]
    rw [if_neg (by omega), if_pos (by omega), Nat.add_sub_cancel_left]

theorem parseSubscription_subscriptionParams {x : Subscription} (h : subscriptionInRange x = true) :
    parseSubscription (subscriptionParams x) = some x := by
  rcases x with ⟨kind, id⟩
  cases kind with
  | key =>
    have hid : 1 ≤ id ∧ id ≤ 4094 := by simpa [subscriptionInRange] using h
    have hback : leNat (leBytes id 2) = id := leNat_leBytes (by omega)
    rw [leBytes_two] at hback
    simp [subscriptionParams, leBytes_two, parseSubscription, hback, hid]
  | counter =>
    have hid : id ≤ 15 := by simpa [subscriptionInRange] using h
    have hback : leNat (leBytes id 2) = id := leNat_leBytes (by omega)
    rw [leBytes_two] at hback
    simp [subscriptionParams, leBytes_two, parseSubscription, hback, hid]

theorem parseMask_setWidth (m : BitVec 6) : parseMask [m.setWidth 8] = some m := by
  have hhigh : (m.setWidth 8).toNat < 64 := by
    rw [BitVec.toNat_setWidth]; omega
  have hback : (m.setWidth 8).setWidth 6 = m := by
    apply BitVec.eq_of_toNat_eq
    simp only [BitVec.toNat_setWidth]
    omega
  simp only [parseMask, extract_high_eq_zero_iff, hhigh, if_true, hback]

theorem parseTouchUp_flag (b : Bool) : parseTouchUp [if b then 0x01#8 else 0x00#8] = some b := by
  cases b <;> rfl

@[simp] theorem length_expectedBytes (expected : Option Nat) : (expectedBytes expected).length = 5 := by
  cases expected <;> simp [expectedBytes]

/-- The five expected-sequence bytes of a record job are read back (R174). -/
theorem expectedOf_expectedBytes {expected : Option Nat} (h : expectedInRange expected = true) :
    ∃ present e0 e1 e2 e3, expectedBytes expected = [present, e0, e1, e2, e3] ∧
      expectedOf present [e0, e1, e2, e3] = some expected := by
  cases expected with
  | none => exact ⟨_, _, _, _, _, rfl, rfl⟩
  | some n =>
    have hback : leNat (leBytes n 4) = n := leNat_leBytes (by simpa [expectedInRange] using h)
    refine ⟨_, _, _, _, _, rfl, ?_⟩
    change some (some (leNat (leBytes n 4))) = _
    rw [hback]

theorem length_jobParams {k : JobKind} (h : kindInRange k = true) : (jobParams k).length ≤ 250 := by
  cases k with
  | append key expected payload =>
    have hp : payload.length ≤ 236 := by
      simp only [kindInRange, Bool.and_eq_true, decide_eq_true_eq] at h
      exact h.2
    simp [jobParams]
    omega
  | delete | countAdvance | countRaise | restrict | setOption | close => simp [jobParams]

/-- A job's row runs the job's handler, and its parser reads the job back (R23, Table 12-6). -/
theorem handleCommand_jobCommand {k : JobKind} (h : kindInRange k = true) :
    ∃ parse, handleCommand (jobCommand k) = handleJob (jobCommand k) parse ∧ parse (jobParams k) = some k := by
  cases k with
  | append key expected payload =>
    obtain ⟨⟨⟨hk1, hk2⟩, hexp⟩, hpay⟩ : ((1 ≤ key ∧ key ≤ 4094) ∧ expectedInRange expected = true) ∧
        payload.length ≤ 236 := by simpa [kindInRange] using h
    obtain ⟨present, e0, e1, e2, e3, hbytes, hof⟩ := expectedOf_expectedBytes hexp
    have hkey := parseKey_leBytes hk1 hk2
    rw [leBytes_two] at hkey
    refine ⟨parseAppend, rfl, ?_⟩
    simp [jobParams, hbytes, leBytes_two, parseAppend, hkey, hof, hpay]
  | delete key expected =>
    obtain ⟨⟨hk1, hk2⟩, hexp⟩ : (1 ≤ key ∧ key ≤ 4094) ∧ expectedInRange expected = true := by
      simpa [kindInRange] using h
    obtain ⟨present, e0, e1, e2, e3, hbytes, hof⟩ := expectedOf_expectedBytes hexp
    have hkey := parseKey_leBytes hk1 hk2
    rw [leBytes_two] at hkey
    refine ⟨parseDelete, rfl, ?_⟩
    simp [jobParams, hbytes, leBytes_two, parseDelete, hkey, hof]
  | countAdvance c n =>
    obtain ⟨⟨hc, hn1⟩, hn2⟩ : (c ≤ 15 ∧ 1 ≤ n) ∧ n ≤ 65535 := by simpa [kindInRange] using h
    have hback : leNat (leBytes n 2) = n := leNat_leBytes (by omega)
    rw [leBytes_two] at hback
    refine ⟨parseCountAdvance, rfl, ?_⟩
    simp only [jobParams, leBytes_two, parseCountAdvance, hback, toNat_ofNat_byte (n := c) (by omega)]
    rw [if_pos ⟨hc, hn1⟩]
  | countRaise c v =>
    obtain ⟨hc, hv⟩ : c ≤ 15 ∧ v ≤ 16777215 := by simpa [kindInRange] using h
    have hback : leNat (leBytes v 3) = v := leNat_leBytes (by omega)
    rw [leBytes_three] at hback
    refine ⟨parseCountRaise, rfl, ?_⟩
    simp only [jobParams, leBytes_three, parseCountRaise, hback, toNat_ofNat_byte (n := c) (by omega)]
    rw [if_pos hc]
  | restrict target marks =>
    obtain ⟨⟨ht, h7⟩, hne⟩ : (targetInRange target = true ∧ marks.getLsbD 7 = false) ∧ marks ≠ 0#8 := by
      simpa [kindInRange] using h
    refine ⟨parseRestrict, rfl, ?_⟩
    simp only [jobParams, parseRestrict, targetOf_targetByte ht]
    rw [if_pos ⟨h7, hne⟩]
  | setOption marks =>
    obtain ⟨hlow, hne⟩ : marks.toNat < 32 ∧ marks ≠ 0#8 := by simpa [kindInRange] using h
    refine ⟨parseSetOption, rfl, ?_⟩
    simp only [jobParams, parseSetOption, extract_five_eq_zero_iff]
    rw [if_pos ⟨hlow, hne⟩]
  | close => exact ⟨parseClose, rfl, rfl⟩

end Sys2Proof.Machine
end

section
/-! The queries (chapter 8) and the port's own commands (chapters 9 and 10), each on the state its frame was taken
in. -/

namespace Sys2Proof.Machine

/-! ### What a taken frame's command reads (R131) -/

@[simp] theorem keyDenied_taken (s : State) (p r : Port) (key : Nat) :
    keyDenied (s.taken p) r key = keyDenied s r key := keyDenied_congr (by simp) r key

@[simp] theorem counterDenied_taken (s : State) (p r : Port) (c : Nat) :
    counterDenied (s.taken p) r c = counterDenied s r c := counterDenied_congr (by simp) r c

@[simp] theorem counterEntry_taken (s : State) (p : Port) (c : Nat) : counterEntry (s.taken p) c = counterEntry s c :=
  counterEntry_congr (by simp) c

@[simp] theorem levelMode_taken (s : State) (p r : Port) : levelMode (s.taken p) r = levelMode s r :=
  levelMode_congr (by simp) r

theorem keyDenied_eq (s : State) (p : Port) (key : Nat) :
    keyDenied s p key = (copyWord s (2 + key / 256)).getLsbD (portIndex p) := rfl

theorem counterDenied_eq (s : State) (p : Port) (c : Nat) :
    counterDenied s p c = (copyWord s (18 + c)).getLsbD (portIndex p) := rfl

/-- A query's frame is answered from the state it was taken in. -/
theorem exec_query {s : State} {bus : Bus} {p : Port} (h : Takes s bus p) {cmd : Command}
    {ans : State → Port → List Byte → Code × List Byte} (hcmd : handleCommand cmd = handleQuery cmd ans) (tag : Byte)
    {params : List Byte} (hlen : params.length ≤ 250) {code : Code} {body : List Byte}
    (hans : ans (s.taken p) p params = (code, body)) :
    exec (commandRow bus (goodFrame cmd tag params) cmd) s = .next (s.answered p (commandCode cmd) tag code body) := by
  rw [exec_goodFrame h cmd tag hlen, hcmd]
  simp only [handleQuery, hans, answer_taken]

/-- A query of a READY part with its parameters read answers what is its own. -/
theorem queryAnswer_ready {α : Type} {s : State} (h : s.device = .ready) (x : α) (own : α → Code × List Byte) :
    queryAnswer s (some x) own = own x := by
  simp [queryAnswer, h]

/-- INFO of a READY part, its key read (R136). -/
theorem infoAnswer_ready {s : State} (h : s.device = .ready) {params : List Byte} {key : Nat}
    (hparse : parseKey params = some key) (p : Port) :
    (keyDenied s p key = true → infoAnswer s p params = (.denied, [])) ∧
    (keyDenied s p key = false → dirFind s.directory key = none → infoAnswer s p params = (.notFound, [])) ∧
    (∀ e, keyDenied s p key = false → dirFind s.directory key = some e →
      infoAnswer s p params = (.ok, infoBody e)) := by
  rw [infoAnswer, hparse, queryAnswer_ready h]
  exact ⟨fun hd => by simp [hd], fun hd hf => by simp [hd, hf], fun e hd hf => by simp [hd, hf]⟩

/-- Settles O30: DENIED by the key's mark, else by the lookup. -/
theorem infoAnswers : Obligations.InfoAnswers := by
  unfold Obligations.InfoAnswers
  intro bus p s tag key htakes hready hk1 hk2
  have hlen : (leBytes key 2).length ≤ 250 := by simp
  obtain ⟨hdenied, hmissing, hfound⟩ :=
    infoAnswer_ready (s := s.taken p) (by simpa using hready) (parseKey_leBytes hk1 hk2) p
  simp only [keyDenied_taken, State.taken_frame] at hdenied hmissing hfound
  rw [← keyDenied_eq]
  exact ⟨fun hd => exec_query (cmd := .info) htakes rfl tag hlen (hdenied hd),
    fun hd hf => exec_query (cmd := .info) htakes rfl tag hlen (hmissing hd hf),
    fun e hd hf => exec_query (cmd := .info) htakes rfl tag hlen (hfound e hd hf)⟩

/-- Settles O31: the first 16 of the entries the port may read. -/
theorem listAnswers : Obligations.ListAnswers := by
  unfold Obligations.ListAnswers
  rintro bus p s tag start _ htakes hready hk1 hk2 rfl
  refine exec_query (cmd := .list) htakes rfl tag (by simp) ?_
  rw [listAnswer, parseKey_leBytes hk1 hk2, queryAnswer_ready (by simpa using hready)]
  simp only [listable, State.taken_frame, keyDenied_taken, listBody, flagByte, List.length_take, decide_eq_true_eq]
  rfl

/-! ### What denied entries cannot show (R100) -/

/-- The key's lookup does not see entries of keys the port may not read, unless it is such a key. -/
theorem dirFind_filter_readable (s : State) (p : Port) {key : Nat} (h : keyDenied s p key = false) :
    dirFind (s.directory.filter (fun e => !keyDenied s p e.key)) key = dirFind s.directory key := by
  unfold dirFind
  rw [List.find?_filter]
  congr 1
  funext e
  by_cases he : e.key = key
  · simp [he, h]
  · simp [he]

/-- `s` without the directory entries that port `p`'s deny-read marks cover. -/
def withoutDenied (s : State) (p : Port) : State :=
  { s with directory := s.directory.filter (fun e => !keyDenied s p e.key) }

theorem keyDenied_withoutDenied (s : State) (p r : Port) (key : Nat) :
    keyDenied (withoutDenied s p) r key = keyDenied s r key := rfl

theorem infoAnswer_withoutDenied (s : State) (p : Port) (params : List Byte) :
    infoAnswer (withoutDenied s p) p params = infoAnswer s p params := by
  cases hdevice : s.device with
  | mounting => simp [infoAnswer, queryAnswer, hdevice, withoutDenied]
  | ready =>
    have hdevice' : (withoutDenied s p).device = .ready := hdevice
    cases hparse : parseKey params with
    | none => simp [infoAnswer, queryAnswer, hdevice, hdevice', hparse]
    | some key =>
      rw [infoAnswer, infoAnswer, hparse, queryAnswer_ready hdevice, queryAnswer_ready hdevice',
        keyDenied_withoutDenied]
      cases hd : keyDenied s p key with
      | true => rfl
      | false => rw [withoutDenied, dirFind_filter_readable s p hd]

theorem listable_withoutDenied (s : State) (p : Port) (start : Nat) :
    listable (withoutDenied s p) p start = listable s p start := by
  have hdirectory : (withoutDenied s p).directory = s.directory.filter (fun e => !keyDenied s p e.key) := rfl
  simp only [listable, keyDenied_withoutDenied, hdirectory, List.filter_filter, Bool.and_assoc, Bool.and_self]

theorem listAnswer_withoutDenied (s : State) (p : Port) (params : List Byte) :
    listAnswer (withoutDenied s p) p params = listAnswer s p params := by
  simp only [listAnswer, queryAnswer, listable_withoutDenied]
  rfl

/-- A query whose answer does not see the denied entries leaves the same port state without them. -/
theorem receive_query_withoutDenied {cmd : Command} {ans : State → Port → List Byte → Code × List Byte}
    (hans : ∀ s p params, ans (withoutDenied s p) p params = ans s p params) (s : State) (p : Port)
    (bytes : List Byte) :
    (receive p bytes (fun _ => handleQuery cmd ans) (withoutDenied s p)).port p =
      (receive p bytes (fun _ => handleQuery cmd ans) s).port p := by
  have hport : (withoutDenied s p).port p = s.port p := by cases p <;> rfl
  have hnote : noteSendFrame p (withoutDenied s p) = withoutDenied (noteSendFrame p s) p := by cases p <;> rfl
  have hdrop : ∀ t, dropReply p (withoutDenied t p) = withoutDenied (dropReply p t) p := by
    intro t; cases p <;> rfl
  have hports : ∀ t : State, (withoutDenied t p).port p = t.port p := by intro t; cases p <;> rfl
  cases hform : frameIncomplete bytes with
  | true =>
    rw [receive_incomplete hform, receive_incomplete hform, hnote]
    simp [setTruncated, hports]
  | false =>
    match bytes, hform with
    | code :: tag :: len :: rest, hform =>
      rw [receive_complete hform, receive_complete hform, hnote]
      unfold takeComplete takeComplete.judgeForm
      rw [hports, hdrop]
      split
      · simp [setDiscard, hports]
      all_goals
        split
        · simp [answer, hports]
        · simp [handleQuery, answer, hports, hans]

/-- Settles O32: neither answer sees an entry of a key the port may not read. -/
theorem deniedEntriesDoNotShow : Obligations.DeniedEntriesDoNotShow := by
  unfold Obligations.DeniedEntriesDoNotShow
  rintro bus p s f hreached _ rfl
  have hreached' : reachedPort (withoutDenied s p) bus = some p := hreached
  have hrun : ∀ (cmd : Command) (h : Handler) (u : State), reachedPort u bus = some p →
      sendCommand cmd bus f h u = receive p (frameBytes (commandCode cmd) f) (fun _ => h) u :=
    fun cmd h u hu => sendFrame_reached hu _ _
  refine ⟨fun t t' ht ht' => ?_, fun t t' ht ht' => ?_⟩
  · change Host.Outcome.next (sendCommand .info bus f (handleQuery .info infoAnswer) s) = _ at ht
    change Host.Outcome.next (sendCommand .info bus f (handleQuery .info infoAnswer) (withoutDenied s p)) = _ at ht'
    cases ht
    cases ht'
    rw [hrun _ _ _ hreached, hrun _ _ _ hreached', receive_query_withoutDenied infoAnswer_withoutDenied]
  · change Host.Outcome.next (sendCommand .list bus f (handleQuery .list listAnswer) s) = _ at ht
    change Host.Outcome.next (sendCommand .list bus f (handleQuery .list listAnswer) (withoutDenied s p)) = _ at ht'
    cases ht
    cases ht'
    rw [hrun _ _ _ hreached, hrun _ _ _ hreached', receive_query_withoutDenied listAnswer_withoutDenied]

/-! ### Counters, policy, identity, status and the audit's report (R138 to R141) -/

/-- The marks of a group or counter word as a number (Table 12-1). -/
theorem policyMarks_eq (v : Word) : policyMarks v = BitVec.ofNat 8 (v.toNat % 128) := by
  apply BitVec.eq_of_toNat_eq
  simp only [policyMarks, BitVec.toNat_setWidth, BitVec.toNat_and, BitVec.toNat_ofNat]
  rw [show 127 % 2 ^ 32 = 2 ^ 7 - 1 by norm_num, Nat.and_two_pow_sub_one_eq_mod]

theorem optionMarks_eq (v : Word) : optionMarks v = BitVec.ofNat 8 (v.toNat % 32) := by
  apply BitVec.eq_of_toNat_eq
  simp only [optionMarks, BitVec.toNat_setWidth, BitVec.toNat_and, BitVec.toNat_ofNat]
  rw [show 31 % 2 ^ 32 = 2 ^ 5 - 1 by norm_num, Nat.and_two_pow_sub_one_eq_mod]

theorem lifeCycleByte_eq (s : State) : lifeCycleByte s = if copyWord s 0 = 0#32 then 0x00#8 else 0x01#8 := by
  by_cases h : copyWord s 0 = 0#32 <;> simp [lifeCycleByte, flagByte, isClosed, h]

/-- A target byte 0 to 31 names option-block word 2 to 33 (Tables 6-4, 12-5). -/
theorem targetOf_ofNat {n : Nat} (h : n ≤ 31) :
    ∃ t, targetOf (BitVec.ofNat 8 n) = some t ∧ targetByte t = BitVec.ofNat 8 n ∧ targetIndex t = 2 + n := by
  by_cases hg : n ≤ 15
  · refine ⟨.group n, ?_, rfl, rfl⟩
    simp only [targetOf, toNat_ofNat_byte (n := n) (by omega), hg, if_true]
  · refine ⟨.counter (n - 16), ?_, ?_, ?_⟩
    · simp only [targetOf, toNat_ofNat_byte (n := n) (by omega), hg, h, if_true, if_false]
    · simp only [targetByte, show 16 + (n - 16) = n by omega]
    · simp only [targetIndex]; omega

/-- The room of a counter, in the words of the statement (chapter 5 section 5.3). -/
theorem counterRoom_eq (e : CounterEntry) :
    counterRoom e = if e.strip = none then 0 else match e.highest with | none => 192 | some h => 191 - h := by
  rcases e with ⟨_, _ | _, _, _, _ | _, _⟩ <;> rfl

/-- Settles O33: each query's own answer on the taken state. -/
theorem counterAndPolicyQueries : Obligations.CounterAndPolicyQueries := by
  unfold Obligations.CounterAndPolicyQueries
  intro bus p s tag htakes hready
  have hready' : (s.taken p).device = .ready := by simpa using hready
  refine ⟨fun c hc => ?_, fun n hn => ?_, ?_⟩
  · rw [← counterDenied_eq]
    split
    · next hdenied =>
      refine exec_query (cmd := .countRead) htakes rfl tag (by simp) ?_
      rw [countReadAnswer, parseCounter_ofNat hc, queryAnswer_ready hready']
      simp [hdenied]
    · next hallowed =>
      refine exec_query (cmd := .countRead) htakes rfl tag (by simp) ?_
      rw [countReadAnswer, parseCounter_ofNat hc, queryAnswer_ready hready']
      simp only [counterDenied_taken, hallowed, Bool.false_eq_true, if_false, counterEntry_taken, countBody,
        counterRoom_eq] <;> rfl
  · obtain ⟨t, hof, hbyte, hindex⟩ := targetOf_ofNat hn
    refine exec_query (cmd := .policyRead) htakes rfl tag (by simp) ?_
    rw [policyReadAnswer, parseTarget, hof, queryAnswer_ready hready']
    simp only [policyBody, hbyte, hindex, policyMarks_eq, optionMarks_eq, lifeCycleByte_eq, copyWord_taken]
  · refine exec_query (cmd := .identify) htakes rfl tag (by simp) ?_
    rw [identifyAnswer, parseNothing, queryAnswer_ready hready']
    simp only [identifyBody, wordBytes, lifeCycleByte_eq, copyWord_taken]

/-- STATUS answers the status body of the state its frame was taken in (R140). -/
theorem exec_status {s : State} {bus : Bus} {p : Port} (h : Takes s bus p) (tag : Byte) :
    exec (.status bus (goodFrame .status tag [])) s = .next (s.answered p 0x06#8 tag .ok (statusBody s)) := by
  refine exec_query (cmd := .status) h rfl tag (by simp) ?_
  simp [statusAnswer, parseNothing, statusBody]

/-- Settles O34: STATUS by the device state, and the audit's report. -/
theorem statusAndReportAnswer : Obligations.StatusAndReportAnswer := by
  unfold Obligations.StatusAndReportAnswer
  intro bus p s tag htakes
  refine ⟨fun hmounting => ?_, fun hready => ?_, fun hready => ?_⟩
  · rw [exec_status htakes]
    simp only [statusBody, hmounting, deviceByte]
  · rw [exec_status htakes]
    simp only [statusBody, hready, deviceByte, freeWords, Config.arrayWords, reportBody, List.flatMap_cons,
      List.flatMap_nil, List.append_assoc, List.append_nil]
  · refine exec_query (cmd := .auditReport) htakes rfl tag (by simp) ?_
    rw [auditReportAnswer, parseNothing, queryAnswer_ready (by simpa using hready)]
    simp only [auditReportBody, State.taken_frame]
    rfl

end Sys2Proof.Machine
end

section
/-! The commands that change their port, enter a job, a claim or an audit (chapters 2, 8, 9, 10 and 11). -/

namespace Sys2Proof.Machine

/-! ### READ (R131, R132) -/

/-- Settles O29: the handler's own equation on the taken state. -/
theorem readEntersClaim : Obligations.ReadEntersClaim := by
  unfold Obligations.ReadEntersClaim
  intro bus p s tag key htakes hready hk1 hk2
  have hexec := exec_goodFrame htakes .read tag (params := leBytes key 2) (by simp)
  have hdevice : ¬ (s.taken p).device = .mounting := by simp [hready]
  refine hexec.trans ?_
  simp only [handleCommand, handleRead, hdevice, if_false, parseKey_leBytes hk1 hk2]
  cases p <;> rfl

/-! ### Subscriptions (R143, R144) -/

theorem subscriptionDenied_eq (s : State) (p : Port) (x : Subscription) :
    subscriptionDenied s p x =
      (copyWord s (match x.kind with | .key => 2 + x.id / 256 | .counter => 18 + x.id)).getLsbD (portIndex p) := by
  rcases x with ⟨_ | _, _⟩ <;> rfl

@[simp] theorem subscriptionDenied_taken (s : State) (p r : Port) (x : Subscription) :
    subscriptionDenied (s.taken p) r x = subscriptionDenied s r x := by
  simp only [subscriptionDenied_eq, copyWord_taken]

/-- A port's new subscriptions and the reply, after its frame was taken. -/
theorem answer_subs_taken (s : State) (p : Port) (subs : List Subscription) (cmd tag : Byte) (code : Code) :
    answer p cmd tag code [] ((s.taken p).setPort p { (s.taken p).port p with subs := subs }) =
      (s.setPort p { s.port p with subs := subs }).answered p cmd tag code [] :=
  answer_setPort_taken s p (fun q => { q with subs := subs }) cmd tag code [] (fun _ => rfl) (fun _ => rfl)

/-- Settles O35: the checks of R143 and R144 in order. -/
theorem subscriptionsChange : Obligations.SubscriptionsChange := by
  unfold Obligations.SubscriptionsChange
  intro bus p s tag x htakes hready hrange
  have hdevice : ¬ (s.taken p).device = .mounting := by simp [hready]
  have hparse := parseSubscription_subscriptionParams hrange
  have hlen : (subscriptionParams x).length ≤ 250 := by simp [subscriptionParams]
  refine ⟨(exec_goodFrame htakes .subscribe tag hlen).trans ?_,
    (exec_goodFrame htakes .unsubscribe tag hlen).trans ?_⟩
  · simp only [handleCommand, handleSubscribe, hdevice, if_false, hparse, answer_taken, answer_subs_taken]
    simp only [subscriptionDenied_taken, State.port_taken_frame]
    rcases x with ⟨_ | _, _⟩ <;> rfl
  · simp only [handleCommand, handleUnsubscribe, hdevice, if_false, hparse, answer_taken, answer_subs_taken]
    simp only [State.port_taken_frame]
    rfl

/-! ### The alert mask (R150, R151) -/

/-- The port after its mask was replaced, its line judged when it is in LEVEL mode. -/
def withMask (level : Bool) (m : BitVec 6) (q : PortState) : PortState :=
  { q with mask := m, lineLow := if level = true then workWaiting { q with mask := m } else q.lineLow }

theorem judgeLevel_setMask (p : Port) (m : BitVec 6) (s : State) :
    judgeLevel p (s.setPort p { s.port p with mask := m }) = s.setPort p (withMask (levelMode s p) m (s.port p)) := by
  simp only [judgeLevel_eq, State.port_setPort_same, State.setPort_setPort, levelMode_setPort, withMask]

/-- Enabled work waits exactly when a notice of an enabled kind does, or a result with RESULT enabled (R151). -/
theorem workWaiting_iff (q : PortState) :
    workWaiting q = true ↔
      (∃ n ∈ q.ring, noticeEnabled q.mask n.kind = true) ∨ (q.results ≠ [] ∧ q.mask.getLsbD 5 = true) := by
  simp [workWaiting, resultEnabled, resultEnableBit]

theorem noticeEnabled_eq (mask : BitVec 6) (k : NoticeKind) :
    noticeEnabled mask k =
      mask.getLsbD
        (match k with
          | .keyWritten => 0
          | .keyDeleted => 1
          | .counterMoved => 2
          | .policyChanged => 3
          | .mountDone => 4) := by
  cases k <;> rfl

/-- Settles O36: the mask and the line in one replacement of the port. -/
theorem alertMaskReplaced : Obligations.AlertMaskReplaced := by
  unfold Obligations.AlertMaskReplaced
  refine ⟨fun bus p s tag m htakes hready => ?_, fun q => ?_⟩
  · have hdevice : ¬ (s.taken p).device = .mounting := by simp [hready]
    refine (exec_goodFrame htakes .setAlertMask tag (by simp)).trans ?_
    simp only [handleCommand, handleSetAlertMask, hdevice, if_false, parseMask_setWidth, judgeLevel_setMask,
      levelMode_taken]
    rw [answer_setPort_taken s p (withMask (levelMode s p) m) _ _ _ _ (fun _ => rfl) (fun _ => rfl)]
    rfl
  · simp only [workWaiting_iff, noticeEnabled_eq] <;> rfl

/-! ### PORT-RESET (R164) -/

/-- Settles O37: the reset port, its orphans and the reply, each in place. -/
theorem portResetEmptiesPort : Obligations.PortResetEmptiesPort := by
  unfold Obligations.PortResetEmptiesPort
  intro bus p s tag htakes hready
  have hdevice : ¬ (s.taken p).device = .mounting := by simp [hready]
  refine (exec_goodFrame htakes .portReset tag (by simp)).trans ?_
  simp only [handleCommand, handlePortReset, hdevice, if_false, parseNothing]
  cases p <;> rfl

/-! ### Job frames (R22 to R27) -/

theorem accessRefusal_congr {s t : State} (h : t.policy = s.policy) (p : Port) (k : JobKind) :
    accessRefusal t p k = accessRefusal s p k := by
  have hcopy : copyWord t = copyWord s := funext (copyWord_congr h)
  unfold accessRefusal portCReadOnly keyPolicy counterPolicy
  rw [hcopy]

theorem lifeCycleRefusal_congr {s t : State} (h : t.policy = s.policy) (p : Port) (k : JobKind) :
    lifeCycleRefusal t p k = lifeCycleRefusal s p k := by
  have hcopy : copyWord t = copyWord s := funext (copyWord_congr h)
  unfold lifeCycleRefusal isClosed
  rw [hcopy]

/-- The acceptance checks on the taken state are those of the state (R22). -/
theorem acceptanceRefusal_taken (s : State) (p : Port) (k : Option JobKind) :
    acceptanceRefusal (s.taken p) p k = acceptanceRefusal s p k := by
  have hpolicy : (s.taken p).policy = s.policy := by simp
  simp only [acceptanceRefusal, accessRefusal_congr hpolicy, lifeCycleRefusal_congr hpolicy, State.taken_frame,
    quotaReached, State.port_taken_frame] <;> rfl

/-- A job frame with parameters in range is queued or refused by the acceptance checks (R22, R27). -/
theorem exec_jobRow {s : State} {bus : Bus} {p : Port} (h : Takes s bus p) (tag : Byte) {k : JobKind}
    (hk : kindInRange k = true) :
    exec (jobRow bus tag k) s = .next
      (match acceptanceRefusal s p (some k) with
        | some code => s.answered p (commandCode (jobCommand k)) tag code []
        | none => answer p (commandCode (jobCommand k)) tag .accepted [] (acceptJob p tag k (s.taken p))) := by
  obtain ⟨parse, hhandle, hparse⟩ := handleCommand_jobCommand hk
  rw [jobRow, exec_goodFrame h _ tag (length_jobParams hk), hhandle]
  simp only [handleJob, hparse, acceptanceRefusal_taken, answer_taken]
  cases acceptanceRefusal s p (some k) <;> rfl

/-- The checks of a READY part in the order of Table 2-4 (R22). -/
theorem acceptanceRefusal_ready {s : State} (h : s.device = .ready) (p : Port) (k : JobKind) :
    acceptanceRefusal s p (some k) =
      (accessRefusal s p k).or ((lifeCycleRefusal s p k).or
        (if 3 ≤ (s.port p).outstanding ∨ 4 ≤ (s.port p).outstanding + (s.port p).results.length then some .quota
        else if 8 ≤ s.jobs.length then some .queueFull else none)) := by
  cases ha : accessRefusal s p k <;> cases hl : lifeCycleRefusal s p k <;>
    simp [acceptanceRefusal, h, ha, hl, quotaReached, Config.queueMax]

/-- Settles O38: no check of Table 2-4 refuses, and the accepted job and its count stand beside the reply. -/
theorem jobAccepted : Obligations.JobAccepted := by
  unfold Obligations.JobAccepted
  intro bus p s tag k htakes hready hk haccess hlife hout hres hqueue
  have hpass : acceptanceRefusal s p (some k) = none := by
    rw [acceptanceRefusal_ready hready, haccess, hlife, if_neg (by omega), if_neg (by omega)]
    rfl
  rw [exec_jobRow htakes tag hk, hpass]
  cases p <;> rfl

/-- Settles O39: the first check that fails is the acceptance checks' own refusal. -/
theorem jobRefused : Obligations.JobRefused := by
  unfold Obligations.JobRefused
  intro bus p s tag k code htakes hready hk hrefused
  have hcode : acceptanceRefusal s p (some k) = some code := by
    rw [acceptanceRefusal_ready hready]
    rcases hrefused with haccess | ⟨haccess, hlife | ⟨hlife, hshare⟩⟩
    · rw [haccess]; rfl
    · rw [haccess, hlife]; rfl
    · rw [haccess, hlife]
      split at hshare
      · next hquota => rw [if_pos hquota, hshare]; rfl
      · next hquota => rw [if_neg hquota, if_pos hshare.1, hshare.2]; rfl
  rw [exec_jobRow htakes tag hk, hcode]

/-! ### AUDIT (R166) -/

/-- The state on which an accepted audit starts: its port counted and answered ACCEPTED (R166). -/
def auditAccepted (s : State) (p : Port) (tag : Byte) : State :=
  (s.setPort p { s.port p with outstanding := (s.port p).outstanding + 1 }).answered p 0x30#8 tag .accepted []

theorem auditAccepted_frame (s : State) (p : Port) (tag : Byte) :
    (auditAccepted s p tag).log = s.log ∧ (auditAccepted s p tag).arbiter = s.arbiter := by
  cases p <;> exact ⟨rfl, rfl⟩

/-- An AUDIT frame of a READY part: AUDIT_BUSY, QUOTA, or the start of the audit (R166). -/
theorem exec_audit {s : State} {bus : Bus} {p : Port} (h : Takes s bus p) (hready : s.device = .ready) (tag : Byte)
    (touchUp : Bool) :
    exec (.audit bus (goodFrame .audit tag [if touchUp then 0x01#8 else 0x00#8])) s = .next
      (if s.audit.running = true then s.answered p 0x30#8 tag .auditBusy []
      else if 3 ≤ (s.port p).outstanding ∨ 4 ≤ (s.port p).outstanding + (s.port p).results.length then
        s.answered p 0x30#8 tag .quota []
      else startAudit p tag touchUp (auditAccepted s p tag)) := by
  have hdevice : ¬ (s.taken p).device = .mounting := by simp [hready]
  have hstate : answer p (commandCode .audit) tag .accepted []
      ((s.taken p).setPort p
        { (s.taken p).port p with outstanding := ((s.taken p).port p).outstanding + 1 }) =
      auditAccepted s p tag := by cases p <;> rfl
  refine (exec_goodFrame h .audit tag (by simp)).trans ?_
  simp only [handleCommand, handleAudit, hdevice, if_false, parseTouchUp_flag, hstate, answer_taken]
  simp only [State.taken_frame, quotaReached, State.port_taken_frame, Bool.or_eq_true, decide_eq_true_eq]
  rfl

/-- The scanner right after the acceptance event (R166). -/
def auditStarted (s : State) (p : Port) (tag : Byte) (touchUp : Bool) (stage : AuditStage) (position : Nat) :
    AuditScanner :=
  ⟨true, some (p, tag), touchUp, false, some s.log.appendPoint, some s.log.stripCursor, stage, position, [], 0, 0, 0⟩

/-- The first unit of an accepted audit: a record, a strip, or none (R166, R167). -/
theorem startAudit_eq (p : Port) (tag : Byte) (touchUp : Bool) (s : State) :
    startAudit p tag touchUp s =
      if 4134 < s.log.appendPoint then
        enterClaim .audit { s with audit := auditStarted s p tag touchUp .records 4134 }
      else if 0 < s.log.stripCursor then
        enterClaim .audit { s with audit := auditStarted s p tag touchUp .strips 0 }
      else completeAudit { s with audit := auditStarted s p tag touchUp .strips 0 } := by
  by_cases hrecords : 4134 < s.log.appendPoint
  · have hgo : ¬ s.log.appendPoint ≤ 4134 := by omega
    simp [startAudit, continueAudit, auditStarted, Config.recordStart, hrecords, hgo]
  · have hgo : s.log.appendPoint ≤ 4134 := by omega
    by_cases hstrips : 0 < s.log.stripCursor
    · have hne : ¬ s.log.stripCursor = 0 := by omega
      simp [startAudit, continueAudit, startStrips, nextStrip, auditStarted, Config.recordStart, hrecords, hgo,
        hstrips, hne]
    · have hz : s.log.stripCursor = 0 := by omega
      simp [startAudit, continueAudit, startStrips, nextStrip, auditStarted, Config.recordStart, hrecords, hgo, hz]

/-- An audit with no unit to examine completes in its acceptance event (R170). -/
theorem completeAudit_auditStarted (s u : State) (p : Port) (tag : Byte) (touchUp : Bool) (stage : AuditStage)
    (position : Nat) :
    completeAudit { s with audit := auditStarted u p tag touchUp stage position } =
      deliverResult p false ⟨.ok, tag, .audit, .audit 0 0 0⟩
        { s with audit := { auditStarted u p tag touchUp stage position with running := false } } := rfl

/-- Settles O42: the refusals in order, then the start by the first unit there is. -/
theorem auditRequested : Obligations.AuditRequested := by
  unfold Obligations.AuditRequested
  rintro bus p s tag touchUp _ rfl htakes hready
  have hexec := exec_audit htakes hready tag touchUp
  refine ⟨fun hrun => ?_, fun hrun hquota => ?_, fun hrun hout hres => ?_⟩
  · rw [hexec, if_pos hrun]
  · rw [hexec, if_neg (by simp [hrun]), if_pos hquota]
  obtain ⟨hlog, harbiter⟩ := auditAccepted_frame s p tag
  rw [hexec, if_neg (by simp [hrun]), if_neg (by omega), startAudit_eq]
  refine ⟨fun hrecords => ?_, fun hnone hstrips => ?_, fun hnone hempty => ?_⟩
  · rw [if_pos (by rwa [hlog])]
    cases p <;> rfl
  · rw [if_neg (by rw [hlog]; omega), if_pos (by rwa [hlog])]
    cases p <;> rfl
  · rw [if_neg (by rw [hlog]; omega), if_neg (by rw [hlog]; omega), completeAudit_auditStarted]
    have same := sameBlocks_deliverResult p false ⟨.ok, tag, .audit, .audit 0 0 0⟩
      { auditAccepted s p tag with
        audit := { auditStarted (auditAccepted s p tag) p tag touchUp .strips 0 with running := false } }
    obtain ⟨hresults, hcount, -, hreply, -⟩ := port_deliverResult_same p false ⟨.ok, tag, .audit, .audit 0 0 0⟩
      { auditAccepted s p tag with
        audit := { auditStarted (auditAccepted s p tag) p tag touchUp .strips 0 with running := false } }
    refine ⟨_, rfl, congrArg AuditScanner.running same.audit, same.arbiter.trans harbiter, hcount.trans ?_,
      hresults.trans ?_, hreply.trans ?_⟩
    all_goals cases p <;> rfl

end Sys2Proof.Machine
end

section
/-! The fetches, PORT-STATUS and Port C's last selector (R149, R155, R156, R161, R163). -/

namespace Sys2Proof.Machine

/-- A fetch or PORT-STATUS row at the port it reaches takes the effect of the selector that rules there. -/
theorem fetchOn_of_fetches {s : State} {bus : Bus} {p : Port} {sel : Selector} (h : Fetches s bus p sel) :
    fetchOn bus sel s = fetchEffect sel p s := by
  obtain ⟨hreached, hselector⟩ := h
  have hruling : rulingSelector s sel p = sel := by
    cases p with
    | a => rfl
    | b => rfl
    | c => exact hselector rfl
  simp only [fetchOn, onBus, hreached, hruling]

theorem judgeLevel_setPort (p : Port) (q : PortState) (s : State) :
    judgeLevel p (s.setPort p q) =
      s.setPort p { q with lineLow := if levelMode s p = true then workWaiting q else q.lineLow } := by
  simp only [judgeLevel_eq, State.port_setPort_same, State.setPort_setPort, levelMode_setPort]

/-- Settles O44: the queue's and the ring's head, each with its line judged again. -/
theorem fetchTakesOldest : Obligations.FetchTakesOldest := by
  unfold Obligations.FetchTakesOldest
  refine fun bus p s => ⟨fun hfetch => ?results, fun hfetch => ?notices⟩
  case results =>
    have hexec : exec (.fetchResult bus) s = .next (fetchResultAt p s) :=
      congrArg Host.Outcome.next (fetchOn_of_fetches hfetch)
    refine ⟨fun hnone => ?_, ?_⟩
    · rw [hexec, fetchResultAt, hnone]; rfl
    · rintro r rest _ hhead rfl
      rw [hexec, fetchResultAt, hhead]
      simp only [judgeLevel_setPort]
      rfl
  case notices =>
    have hexec : exec (.fetchNotice bus) s = .next (fetchNoticeAt p s) :=
      congrArg Host.Outcome.next (fetchOn_of_fetches hfetch)
    refine ⟨fun hnone => ?_, ?_⟩
    · rw [hexec, fetchNoticeAt, hnone]; rfl
    · rintro n rest _ _ hhead rfl rfl
      rw [hexec, fetchNoticeAt, hhead]
      simp only [judgeLevel_setPort]
      rfl

/-- The places of the port-status byte (Table 12-8). -/
theorem statusByte_toNat (pgm truncated discard results : Bool) (notice slot : BitVec 2) :
    (BitVec.ofBool pgm ++ BitVec.ofBool truncated ++ BitVec.ofBool discard ++ BitVec.ofBool results ++ notice ++
      slot : BitVec 8).toNat =
      slot.toNat + 4 * notice.toNat + 16 * results.toNat + 32 * discard.toNat + 64 * truncated.toNat +
        128 * pgm.toNat := by
  revert pgm truncated discard results notice slot
  decide

theorem slotBits_toNat (slot : Slot) :
    (slotBits slot).toNat = match slot with | .empty => 0 | .working _ => 1 | .replyReady => 2 := by
  cases slot <;> rfl

theorem noticeBits_toNat (d : DeviceState) (q : PortState) :
    (noticeBits d q).toNat =
      if d = .mounting then 2 else if q.wrapped = true then 3 else if q.ring = [] then 0 else 1 := by
  cases d
  · rfl
  · cases hw : q.wrapped <;> cases hr : q.ring <;> simp [noticeBits, hw, hr]

/-- The port-status byte by arithmetic (Table 12-8). -/
theorem portStatusByte_toNat (s : State) (p : Port) :
    (portStatusByte s p).toNat =
      (match (s.port p).slot with
        | .empty => 0
        | .working _ => 1
        | .replyReady => 2) +
      4 * (if s.device = .mounting then 2 else if (s.port p).wrapped = true then 3
        else if (s.port p).ring = [] then 0 else 1) +
      16 * (if (s.port p).results = [] then 0 else 1) + 32 * (s.port p).discard.toNat +
      64 * (s.port p).truncated.toNat + 128 * s.pgmEn.toNat := by
  have hresults : (!(s.port p).results.isEmpty).toNat = if (s.port p).results = [] then 0 else 1 := by
    cases (s.port p).results <;> rfl
  rw [portStatusByte, statusByte_toNat, slotBits_toNat, noticeBits_toNat, hresults]

/-- Settles O45: PORT-STATUS, or on Port C a read after SEND-FRAME, gives the byte with that value. -/
theorem portStatusReports : Obligations.PortStatusReports := by
  unfold Obligations.PortStatusReports
  intro bus p s b hreached hselector hb
  have hbyte : portStatusByte s p = b :=
    BitVec.eq_of_toNat_eq ((portStatusByte_toNat s p).trans hb.symm)
  have heffect : fetchEffect (rulingSelector s .portStatus p) p s = portStatusAt p s := by
    cases p with
    | a => rfl
    | b => rfl
    | c => rcases hselector rfl with h | h <;> simp [rulingSelector, h, fetchEffect]
  change Host.Outcome.next (fetchOn bus .portStatus s) = _
  simp only [fetchOn, onBus, hreached, heffect, portStatusAt, portStatusBytes, withCrc, hbyte, List.cons_append,
    List.nil_append]

/-! ### Port C's last selector, and transactions that reach no port (R156) -/

theorem reachedPort_i2c (s : State) (addr : BitVec 7) :
    reachedPort s (.i2c addr) = if s.powered = true ∧ addr = 0b10110#5 ++ s.portCAdr then some .c else none := rfl

theorem fetchOn_unreached {s : State} {bus : Bus} (h : reachedPort s bus = none) (sel : Selector) :
    fetchOn bus sel s = s := by
  simp [fetchOn, onBus, h]

theorem exec_frameRow (bus : Bus) (bytes : List Byte) (s : State) :
    exec (frameRow bus bytes) s = .next (sendFrame bus bytes handleCode s) := frameMeaningIsItsBytes bus bytes s

theorem exec_lastSelectorWrite_unreached {s : State} {addr : BitVec 7} (h : reachedPort s (.i2c addr) = none)
    (bytes : List Byte) : exec (.lastSelectorWrite addr bytes) s = .next s := by
  change Host.Outcome.next (onBus (.i2c addr) s _) = _
  simp [onBus, h]

theorem exec_lastSelectorWrite_reached {s : State} {addr : BitVec 7} (h : reachedPort s (.i2c addr) = some .c)
    (bytes : List Byte) : exec (.lastSelectorWrite addr bytes) s = .next (writeSelector bytes s) := by
  change Host.Outcome.next (onBus (.i2c addr) s _) = _
  simp [onBus, h]

/-- What a write to Port C does, by its first byte (Table 12-2, R156). -/
theorem writeSelector_cons (sel : Byte) (rest : List Byte) (s : State) :
    writeSelector (sel :: rest) s =
      if sel = 0x01#8 then receive .c rest handleCode s
      else if sel = 0x02#8 then { s with lastSelector := .fetchReply }
      else if sel = 0x03#8 then { s with lastSelector := .fetchResult }
      else if sel = 0x04#8 then { s with lastSelector := .fetchNotice }
      else if sel = 0x05#8 then { s with lastSelector := .portStatus }
      else s := by
  unfold writeSelector selectorOf
  by_cases h1 : sel = 0x01#8
  · simp [h1]
  by_cases h2 : sel = 0x02#8
  · simp [h2]
  by_cases h3 : sel = 0x03#8
  · simp [h3]
  by_cases h4 : sel = 0x04#8
  · simp [h4]
  by_cases h5 : sel = 0x05#8
  · simp [h5]
  simp [h1, h2, h3, h4, h5]

/-- A read of Port C takes the last selector's effect whichever row names it (log entry 12). -/
theorem fetchOn_i2c_congr (addr : BitVec 7) (sel sel' : Selector) (s : State) :
    fetchOn (.i2c addr) sel s = fetchOn (.i2c addr) sel' s := by
  unfold fetchOn onBus
  rw [reachedPort_i2c]
  split
  · rfl
  · next p hp =>
    split at hp
    · cases hp; rfl
    · cases hp

/-- Settles O46: the write's first byte, and the two reasons a transaction reaches no port. -/
theorem lastSelectorKept : Obligations.LastSelectorKept := by
  unfold Obligations.LastSelectorKept
  refine ⟨fun addr sel rest s hpower haddr => ?_, fun bus bytes s hnone => ?_, fun addr bytes s hother => ?_,
    fun addr s => ?_⟩
  · have hreached : reachedPort s (.i2c addr) = some .c := by rw [reachedPort_i2c, if_pos ⟨hpower, haddr⟩]
    have hframe : exec (.frameDiscard (.i2c addr) rest) s = .next (receive .c rest handleCode s) :=
      congrArg Host.Outcome.next (sendFrame_reached hreached rest handleCode)
    refine ⟨exec_lastSelectorWrite_reached hreached [], ?_⟩
    rw [exec_lastSelectorWrite_reached hreached, writeSelector_cons, hframe]
    simp only [apply_ite Host.Outcome.next]
  · have hfetch : ∀ sel, Host.Outcome.next (fetchOn bus sel s) = (.next s : Host.Outcome State Fault Refusal) :=
      fun sel => by rw [fetchOn_unreached hnone]
    exact ⟨by rw [exec_frameRow, sendFrame_unreached hnone], hfetch _, hfetch _, hfetch _, hfetch _⟩
  · have hnone : reachedPort s (.i2c addr) = none := by
      rw [reachedPort_i2c, if_neg]
      rintro ⟨hpower, haddr⟩
      rcases hother with h | h
      · simp [h] at hpower
      · exact h haddr
    exact ⟨exec_lastSelectorWrite_unreached hnone bytes, hnone⟩
  · have hsame : ∀ sel, Host.Outcome.next (fetchOn (.i2c addr) sel s) =
        (.next (fetchOn (.i2c addr) .portStatus s) : Host.Outcome State Fault Refusal) :=
      fun sel => by rw [fetchOn_i2c_congr]
    exact ⟨hsame _, hsame _, hsame _⟩

end Sys2Proof.Machine
end

section
/-! The coded words of the array (Table 12-1, R44, R79, R172): what is encoded is read back, and a guard that counts
the zero bits keeps a valid word from turning into another by cells that only set. -/

namespace Sys2Proof.Machine

/-! ### Parts of a word -/

theorem extract_full {n : Nat} (x : BitVec n) : x.extractLsb' 0 n = x := by
  apply BitVec.eq_of_getLsbD_eq
  intro i hi
  simp [hi]

/-- The parts of a guarded word, from its low end up. -/
theorem extract_guarded {n m k : Nat} (rest : BitVec k) (guard : BitVec m) (fields : BitVec n) :
    (rest ++ guard ++ fields).extractLsb' 0 n = fields ∧ (rest ++ guard ++ fields).extractLsb' n m = guard ∧
    (rest ++ guard ++ fields).extractLsb' (n + m) k = rest := by
  refine ⟨?_, ?_, ?_⟩
  · rw [BitVec.extractLsb'_append_eq_of_add_le (by omega), extract_full]
  · rw [BitVec.extractLsb'_append_eq_of_le (by omega), Nat.sub_self,
      BitVec.extractLsb'_append_eq_of_add_le (by omega), extract_full]
  · rw [BitVec.extractLsb'_append_eq_of_le (by omega), BitVec.extractLsb'_append_eq_of_le (by omega),
      show n + m - n - m = 0 by omega, extract_full]

/-- Words that agree in three adjoining parts are equal. -/
theorem word_eq_of_parts {n m k : Nat} (hsum : n + m + k = 32) {v w : Word}
    (h0 : v.extractLsb' 0 n = w.extractLsb' 0 n) (h1 : v.extractLsb' n m = w.extractLsb' n m)
    (h2 : v.extractLsb' (n + m) k = w.extractLsb' (n + m) k) : v = w := by
  have bit : ∀ {start len : Nat}, v.extractLsb' start len = w.extractLsb' start len →
      ∀ i < len, v.getLsbD (start + i) = w.getLsbD (start + i) := by
    intro start len h i hi
    simpa [hi] using congrArg (fun x => x.getLsbD i) h
  apply BitVec.eq_of_getLsbD_eq
  intro i hi
  by_cases hn : i < n
  · simpa using bit h0 i hn
  · by_cases hm : i < n + m
    · have hbit := bit h1 (i - n) (by omega)
      rwa [show n + (i - n) = i by omega] at hbit
    · have hbit := bit h2 (i - (n + m)) (by omega)
      rwa [show n + m + (i - (n + m)) = i by omega] at hbit

/-! ### Words that only set cells (R2) -/

/-- Cells set in a word stay set in each part of one that has them all. -/
theorem extract_and_not_eq_zero {v w : Word} (h : v &&& ~~~ w = 0#32) (start len : Nat) :
    v.extractLsb' start len &&& ~~~ w.extractLsb' start len = 0#len := by
  rw [and_not_eq_zero_iff] at h ⊢
  rintro ⟨i, hi⟩ hset
  simp only [BitVec.getLsbD_extractLsb', hi, decide_true, Bool.true_and] at hset ⊢
  exact h ⟨start + i, BitVec.lt_of_getLsbD hset⟩ hset

theorem toNat_le_of_and_not_eq_zero {n : Nat} {x y : BitVec n} (h : x &&& ~~~ y = 0#n) : x.toNat ≤ y.toNat := by
  have hand : x &&& y = x := by
    rw [and_not_eq_zero_iff] at h
    apply BitVec.eq_of_getLsbD_eq
    intro i hi
    have hbit := h ⟨i, hi⟩
    simp only at hbit
    rw [BitVec.getLsbD_and]
    cases hx : x.getLsbD i with
    | false => rfl
    | true => rw [hbit hx]; rfl
  calc x.toNat = (x &&& y).toNat := by rw [hand]
    _ = x.toNat &&& y.toNat := BitVec.toNat_and x y
    _ ≤ y.toNat := Nat.and_le_right

theorem onesCount_le {n : Nat} (x : BitVec n) : onesCount x ≤ n := by
  simpa [onesCount] using List.countP_le_length (p := fun i => x.getLsbD i) (l := List.range n)

/-- More set cells, more ones; and with as many ones the same cells. -/
theorem onesCount_mono {n : Nat} {x y : BitVec n} (h : x &&& ~~~ y = 0#n) :
    onesCount x ≤ onesCount y ∧ (onesCount x = onesCount y → x = y) := by
  have himp : ∀ i, x.getLsbD i = true → y.getLsbD i = true :=
    fun i hx => (and_not_eq_zero_iff x y).1 h ⟨i, BitVec.lt_of_getLsbD hx⟩ hx
  refine ⟨List.countP_mono_left fun i _ => himp i, fun hcount => ?_⟩
  unfold onesCount at hcount
  rw [List.countP_eq_length_filter, List.countP_eq_length_filter] at hcount
  have hfilter := (List.monotone_filter_right (List.range n) himp).eq_of_length hcount
  apply BitVec.eq_of_getLsbD_eq
  intro i hi
  have hmem : i ∈ (List.range n).filter (fun i => x.getLsbD i) ↔ i ∈ (List.range n).filter (fun i => y.getLsbD i) := by
    rw [hfilter]
  simp only [List.mem_filter, List.mem_range, hi, true_and] at hmem
  exact Bool.eq_iff_iff.2 hmem

/-- A guard that counts the zero bits of its fields lets no valid word turn into another by cells that only set. -/
theorem guarded_unique {n m k : Nat} (hsum : n + m + k = 32) {v w : Word} (h : v &&& ~~~ w = 0#32)
    (hv : (v.extractLsb' n m).toNat = zerosCount (v.extractLsb' 0 n)) (hvz : v.extractLsb' (n + m) k = 0#k)
    (hw : (w.extractLsb' n m).toNat = zerosCount (w.extractLsb' 0 n)) (hwz : w.extractLsb' (n + m) k = 0#k) :
    v = w := by
  obtain ⟨hones, hsame⟩ := onesCount_mono (extract_and_not_eq_zero h 0 n)
  have hguard := toNat_le_of_and_not_eq_zero (extract_and_not_eq_zero h n m)
  have hvn := onesCount_le (v.extractLsb' 0 n)
  have hwn := onesCount_le (w.extractLsb' 0 n)
  rw [hv, hw] at hguard
  unfold zerosCount at hguard hv hw
  have hfields := hsame (by omega)
  refine word_eq_of_parts hsum hfields (BitVec.eq_of_toNat_eq ?_) (hvz.trans hwz.symm)
  rw [hv, hw, hfields]

/-! ### Headers, bases and claims (R43, R44, R79) -/

theorem extract_withGuard24 (fields : BitVec 24) :
    (withGuard24 fields).extractLsb' 0 24 = fields ∧
    (withGuard24 fields).extractLsb' 24 5 = BitVec.ofNat 5 (zerosCount fields) ∧
    (withGuard24 fields).extractLsb' 29 3 = 0#3 := extract_guarded (n := 24) (m := 5) _ _ fields

theorem guard24Holds_withGuard24 (fields : BitVec 24) : guard24Holds (withGuard24 fields) = true := by
  obtain ⟨hfields, hguard, hrest⟩ := extract_withGuard24 fields
  have hcount : zerosCount fields < 32 := by unfold zerosCount; omega
  simp [guard24Holds, hfields, hguard, hrest, hcount]

theorem guard24Holds_iff (v : Word) :
    guard24Holds v = true ↔
      (v.extractLsb' 24 5).toNat = zerosCount (v.extractLsb' 0 24) ∧ v.extractLsb' 29 3 = 0#3 := by
  simp [guard24Holds]

theorem guard24_unique {v w : Word} (h : v &&& ~~~ w = 0#32) (hv : guard24Holds v = true)
    (hw : guard24Holds w = true) : v = w := by
  rw [guard24Holds_iff] at hv hw
  exact guarded_unique (n := 24) (m := 5) (k := 3) (by norm_num) h hv.1 hv.2 hw.1 hw.2

theorem guard24Holds_of_decodeHeader {v : Word} (h : (decodeHeader v).isSome = true) : guard24Holds v = true := by
  unfold decodeHeader at h
  split at h
  · dsimp only at h
    split at h
    · next hvalid => simp only [Bool.and_eq_true] at hvalid; exact hvalid.1.1.1.1
    · simp at h
  · simp at h

theorem guard24Holds_of_decodeBase {v : Word} (h : (decodeBase v).isSome = true) : guard24Holds v = true := by
  unfold decodeBase at h
  split at h
  · assumption
  · simp at h

/-- A part of a word's low part is that part of the word. -/
theorem extract_of_low {v : Word} {n : Nat} {fields : BitVec n} (h : v.extractLsb' 0 n = fields) {start len : Nat}
    (hin : start + len ≤ n) : v.extractLsb' start len = fields.extractLsb' start len := by
  subst h
  apply BitVec.eq_of_getLsbD_eq
  intro i hi
  have hlow : start + i < n := by omega
  simp [hi, hlow]

theorem extract_headerFields (h : Header) :
    (headerFields h).extractLsb' 0 12 = BitVec.ofNat 12 h.key ∧
    (headerFields h).extractLsb' 12 6 = BitVec.ofNat 6 h.w ∧
    (headerFields h).extractLsb' 18 2 = BitVec.ofNat 2 h.pad ∧
    (headerFields h).extractLsb' 20 2 = kindBits h.kind ∧
    (headerFields h).extractLsb' 22 2 = BitVec.ofNat 2 (portIndex h.writer) := by
  unfold headerFields
  refine ⟨?_, ?_, ?_, ?_, ?_⟩
  · rw [BitVec.extractLsb'_append_eq_of_add_le (by omega), extract_full]
  · rw [BitVec.extractLsb'_append_eq_of_le (by omega), Nat.sub_self,
      BitVec.extractLsb'_append_eq_of_add_le (by omega), extract_full]
  · rw [BitVec.extractLsb'_append_eq_of_le (by omega), BitVec.extractLsb'_append_eq_of_le (by omega),
      BitVec.extractLsb'_append_eq_of_add_le (by omega)]
    exact extract_full _
  · rw [BitVec.extractLsb'_append_eq_of_le (by omega), BitVec.extractLsb'_append_eq_of_le (by omega),
      BitVec.extractLsb'_append_eq_of_le (by omega), BitVec.extractLsb'_append_eq_of_add_le (by omega)]
    exact extract_full _
  · rw [BitVec.extractLsb'_append_eq_of_le (by omega), BitVec.extractLsb'_append_eq_of_le (by omega),
      BitVec.extractLsb'_append_eq_of_le (by omega), BitVec.extractLsb'_append_eq_of_le (by omega)]
    exact extract_full _

theorem kindOf_kindBits (k : RecordKind) : kindOf (kindBits k) = some k := by cases k <;> decide

theorem writerOf_portIndex (p : Port) : writerOf (BitVec.ofNat 2 (portIndex p)) = some p := by cases p <;> decide

/-- A header in range is read back (R43, R44). -/
theorem decodeHeader_encodeHeader {h : Header} (hr : h.inRange = true) : decodeHeader (encodeHeader h) = some h := by
  obtain ⟨⟨⟨⟨hk1, hk2⟩, hw⟩, hpad⟩, hzero⟩ :
      (((1 ≤ h.key ∧ h.key ≤ 4094) ∧ h.w ≤ 59) ∧ h.pad ≤ 3) ∧ (h.w ≠ 0 ∨ h.pad = 0) := by
    simpa [Header.inRange] using hr
  obtain ⟨hfields, -, -⟩ := extract_withGuard24 (headerFields h)
  obtain ⟨fkey, fw, fpad, fkind, fwriter⟩ := extract_headerFields h
  have part : ∀ {start len : Nat}, start + len ≤ 24 →
      (encodeHeader h).extractLsb' start len = (headerFields h).extractLsb' start len :=
    fun hin => extract_of_low hfields hin
  have hkey : ((encodeHeader h).extractLsb' 0 12).toNat = h.key := by
    rw [part (by omega), fkey, BitVec.toNat_ofNat]; omega
  have hwords : ((encodeHeader h).extractLsb' 12 6).toNat = h.w := by
    rw [part (by omega), fw, BitVec.toNat_ofNat]; omega
  have hpads : ((encodeHeader h).extractLsb' 18 2).toNat = h.pad := by
    rw [part (by omega), fpad, BitVec.toNat_ofNat]; omega
  have hguard : guard24Holds (encodeHeader h) = true := guard24Holds_withGuard24 _
  have hvalid : (decide (h.w ≠ 0) || decide (h.pad = 0)) = true := by simpa using hzero
  simp only [decodeHeader, part (start := 20) (len := 2) (by omega), part (start := 22) (len := 2) (by omega), fkind,
    fwriter, kindOf_kindBits, writerOf_portIndex, hkey, hwords, hpads, hguard, hvalid, hk1, hk2, hw, decide_true,
    Bool.and_self, if_true]

/-- A 24-bit base value is read back (R79). -/
theorem decodeBase_encodeBase {n : Nat} (h : n < 16777216) : decodeBase (encodeBase n) = some n := by
  obtain ⟨hfields, -, -⟩ := extract_withGuard24 (BitVec.ofNat 24 n)
  have hback : ((encodeBase n).extractLsb' 0 24).toNat = n := by
    rw [encodeBase, hfields, BitVec.toNat_ofNat]; omega
  have hguard : guard24Holds (encodeBase n) = true := guard24Holds_withGuard24 _
  rw [decodeBase, if_pos hguard, hback]

theorem decodeClaim_eq (v : Word) :
    decodeClaim v =
      if (v.extractLsb' 4 3).toNat = zerosCount (v.extractLsb' 0 4) ∧ v.extractLsb' 7 25 = 0#25 then
        some (v.extractLsb' 0 4).toNat
      else none := by
  unfold decodeClaim
  congr 1
  simp

/-- A counter id is read back (R79). -/
theorem decodeClaim_encodeClaim {c : Nat} (h : c < 16) : decodeClaim (encodeClaim c) = some c := by
  obtain ⟨hfields, hguard, hrest⟩ := extract_guarded (0#25) (BitVec.ofNat 3 (zerosCount (BitVec.ofNat 4 c)))
    (BitVec.ofNat 4 c)
  have hcount : zerosCount (BitVec.ofNat 4 c) % 2 ^ 3 = zerosCount (BitVec.ofNat 4 c) :=
    Nat.mod_eq_of_lt (by unfold zerosCount; omega)
  have hback : (BitVec.ofNat 4 c).toNat = c := by rw [BitVec.toNat_ofNat]; omega
  have hvalid : ((encodeClaim c).extractLsb' 4 3).toNat = zerosCount ((encodeClaim c).extractLsb' 0 4) ∧
      (encodeClaim c).extractLsb' 7 25 = 0#25 := by
    unfold encodeClaim
    rw [hfields, hguard, BitVec.toNat_ofNat]
    exact ⟨hcount, hrest⟩
  rw [decodeClaim_eq, if_pos hvalid]
  unfold encodeClaim
  rw [hfields, hback]

theorem guard_of_decodeClaim {v : Word} (h : (decodeClaim v).isSome = true) :
    (v.extractLsb' 4 3).toNat = zerosCount (v.extractLsb' 0 4) ∧ v.extractLsb' 7 25 = 0#25 := by
  rw [decodeClaim_eq] at h
  split at h
  · assumption
  · simp at h

/-- Settles O16: the three formats read back, and the guard's uniqueness for each. -/
theorem codedWordsHold : Obligations.CodedWordsHold := by
  unfold Obligations.CodedWordsHold
  refine ⟨fun h => decodeHeader_encodeHeader, fun n => decodeBase_encodeBase, fun c => decodeClaim_encodeClaim,
    fun v w hsub => ⟨fun hv hw => ?_, fun hv hw => ?_, fun hv hw => ?_⟩⟩
  · exact guard24_unique hsub (guard24Holds_of_decodeHeader hv) (guard24Holds_of_decodeHeader hw)
  · exact guard24_unique hsub (guard24Holds_of_decodeBase hv) (guard24Holds_of_decodeBase hw)
  · obtain ⟨hvg, hvz⟩ := guard_of_decodeClaim hv
    obtain ⟨hwg, hwz⟩ := guard_of_decodeClaim hw
    exact guarded_unique (n := 4) (m := 3) (k := 25) (by norm_num) hsub hvg hvz hwg hwz

end Sys2Proof.Machine
end

section
/-! The engine's start of work (R30 to R33, R40, R51 to R53, R84 to R86, R89, R108, R125): which check ends a job at its
start, and the first sequence that is prepared for one that passes. -/

namespace Sys2Proof.Machine

/-! ### States that agree block by block and port by port -/

theorem PortsChanged.of_sameBlocks {s t : State} (h : SameBlocks s t) : PortsChanged s t := by
  obtain ⟨h1, h2, h3, h4, h5, h6, h7, h8, h9, h10, h11, h12, h13, h14, h15, h16, h17, h18⟩ := h
  cases s
  cases t
  simp only at *
  subst_vars
  rfl

/-- The engine bears on no port's line, so a result is delivered alike whatever the engine holds. -/
theorem deliverResult_engine (p : Port) (orphan : Bool) (r : Result) (s : State) (e : Engine) :
    deliverResult p orphan r { s with engine := e } = { deliverResult p orphan r s with engine := e } := by
  cases orphan
  · simp only [deliverResult, lowerOutstanding, appendResult, arrivalLine_eq]
    cases p <;> rfl
  · cases p <;> rfl

/-! ### The head job is taken (R30, R31) -/

/-- The state on which the start checks of the head job run: CHECKING, the job in hand (R30). -/
def checking (s : State) (j : Job) (rest : List Job) : State :=
  { s with jobs := rest, engine := { Engine.resting with state := .checking, job := some j } }

theorem exec_engineTakeJob_head {s : State} {j : Job} {rest : List Job} (h : HeadJob s j rest) :
    exec .engineTakeJob s = .next (startChecks j (checking s j rest)) := by
  obtain ⟨hready, hidle, hjobs⟩ := h
  change execEngineTakeJob s = _
  simp [execEngineTakeJob, hready, hidle, hjobs, takeJob, checking]

/-- FINISHING of an active job, written out (R37). -/
theorem finish_eq {s : State} {j : Job} (h : s.engine.job = some j) (code : Code) (weak : Bool) :
    finish code weak s =
      { deliverResult j.port j.orphan (jobResult s j code weak) (finishNotices j s) with
        engine := Engine.resting } := by
  simp only [finish, h]

/-- A job that ends at its start checks (R31, R37, R61). -/
theorem finish_checking (s : State) (j : Job) (rest : List Job) (code : Code) :
    finish code false (checking s j rest) = endedAtStart s j rest code := by
  have hnotices : finishNotices j (checking s j rest) = checking s j rest := rfl
  have hresult : jobResult (checking s j rest) j code false =
      ⟨code, j.tag, jobCommand j.kind,
        .job 0 (((jobCounter j.kind).map (fun c => (counterEntry s c).value)).getD 0) false 0⟩ := rfl
  rw [finish_eq (j := j) rfl, hnotices, hresult, endedAtStart, checking]
  have hengine := deliverResult_engine j.port j.orphan
    ⟨code, j.tag, jobCommand j.kind,
      .job 0 (((jobCounter j.kind).map (fun c => (counterEntry s c).value)).getD 0) false 0⟩
    { s with jobs := rest } { Engine.resting with state := .checking, job := some j }
  exact congrArg (fun t => { t with engine := Engine.resting }) hengine

/-- The general start checks in the order of Table 2-7 (R31). -/
theorem startChecks_refused {s : State} {j : Job} {rest : List Job} {code : Code}
    (h : if s.pgmEn = false then code = .isProtected
      else accessRefusal s j.port j.kind = some code ∨
        (accessRefusal s j.port j.kind = none ∧ lifeCycleRefusal s j.port j.kind = some code)) :
    startChecks j (checking s j rest) = finish code false (checking s j rest) := by
  have haccess : accessRefusal (checking s j rest) j.port j.kind = accessRefusal s j.port j.kind :=
    accessRefusal_congr rfl _ _
  have hlife : lifeCycleRefusal (checking s j rest) j.port j.kind = lifeCycleRefusal s j.port j.kind :=
    lifeCycleRefusal_congr rfl _ _
  have hpgm : (checking s j rest).pgmEn = s.pgmEn := rfl
  unfold startChecks
  rw [haccess, hlife, hpgm]
  cases hen : s.pgmEn with
  | false => rw [if_pos hen] at h; subst h; rfl
  | true =>
    rw [if_neg (by simp [hen])] at h
    rcases h with ha | ⟨ha, hl⟩
    · simp [ha]
    · simp [ha, hl]

/-- Settles O47: the refusing check ends the job as `endedAtStart` says. -/
theorem startChecksRefuse : Obligations.StartChecksRefuse := by
  unfold Obligations.StartChecksRefuse
  intro s j rest code hhead hrefused
  rw [exec_engineTakeJob_head hhead, startChecks_refused hrefused, finish_checking]

/-- The kind's own start, past the general checks (R31). -/
def startKind (j : Job) (s : State) : State :=
  match j.kind with
  | .append key expected payload => startAppend j key expected payload s
  | .delete key expected => startDelete j key expected s
  | .countAdvance c n => startAdvance c n s
  | .countRaise c v => startRaise c v s
  | .restrict _ _ => startPolicy j s
  | .setOption _ => startPolicy j s
  | .close => startPolicy j s

/-- The start checks end the job, or the kind's own start follows (R31). -/
theorem startChecks_cases (j : Job) (s : State) :
    (∃ code, startChecks j s = finish code false s) ∨
      (s.pgmEn = true ∧ accessRefusal s j.port j.kind = none ∧ lifeCycleRefusal s j.port j.kind = none ∧
        startChecks j s = startKind j s) := by
  unfold startChecks startKind
  cases hen : s.pgmEn
  · exact .inl ⟨_, rfl⟩
  · cases ha : accessRefusal s j.port j.kind with
    | some code => exact .inl ⟨code, rfl⟩
    | none =>
      cases hl : lifeCycleRefusal s j.port j.kind with
      | some code => exact .inl ⟨code, rfl⟩
      | none => exact .inr ⟨rfl, rfl, rfl, rfl⟩

theorem exec_engineTakeJob_passed {s : State} {j : Job} {rest : List Job} (hhead : HeadJob s j rest)
    (hpass : GeneralChecksPass s j) :
    exec .engineTakeJob s = .next (startKind j (checking s j rest)) := by
  obtain ⟨hen, haccess, hlife⟩ := hpass
  have haccess' : accessRefusal (checking s j rest) j.port j.kind = none :=
    (accessRefusal_congr rfl _ _).trans haccess
  have hlife' : lifeCycleRefusal (checking s j rest) j.port j.kind = none :=
    (lifeCycleRefusal_congr rfl _ _).trans hlife
  have hen' : (checking s j rest).pgmEn = true := hen
  rw [exec_engineTakeJob_head hhead]
  unfold startChecks startKind
  rw [hen', haccess', hlife']
  rfl

theorem sampled_high {s : State} (h : s.pgmEn = true) (go : State → State) : sampled go s = go s := by
  simp [sampled, h]

theorem sampled_low {s : State} (h : s.pgmEn = false) (go : State → State) : sampled go s = abandon s := by
  simp [sampled, h]

/-! ### APPEND and DELETE (R51 to R53) -/

/-- The fit of a span in numbers (R51, R53). -/
theorem spanFits_iff (l : LogAllocator) (w : Nat) :
    spanFits l w = true ↔ l.appendPoint + (5 + w) ≤ 16384 ∧ l.nextSeq < 4294967295 := by
  unfold spanFits spanLength
  rw [Bool.and_eq_true, decide_eq_true_iff, decide_eq_true_iff]

/-- The first attempt of a record job with PGM_EN high and room (R53). -/
theorem beginAttempt_checking {s : State} {j : Job} (rest : List Job) {key : Nat} {kind : RecordKind}
    {payload : List Byte} (hfields : recordFields j.kind = some (key, kind, payload)) (hen : s.pgmEn = true)
    (hfit : spanFits s.log (payloadW payload.length) = true) :
    beginAttempt ⟨0, none, .header, none⟩ j (setWork (.record ⟨0, none, .header, none⟩) (checking s j rest)) =
      recordStarted s j rest key kind payload := by
  have hfit' : spanFits (setWork (.record ⟨0, none, .header, none⟩) (checking s j rest)).log
      (payloadW payload.length) = true := hfit
  unfold beginAttempt
  rw [hfields]
  dsimp only
  rw [sampled_high (by exact hen), if_pos hfit']
  rfl

/-- The start checks of an APPEND in their order (R51). -/
theorem appendRefusal_cases (s : State) (key : Nat) (expected : Option Nat) (len : Nat) :
    (expectedMet expected (dirFind s.directory key) = false → appendRefusal s key expected len = some .stale) ∧
    (expectedMet expected (dirFind s.directory key) = true → dirFind s.directory key = none →
      1024 ≤ s.directory.length → appendRefusal s key expected len = some .dirFull) ∧
    (expectedMet expected (dirFind s.directory key) = true →
      (dirFind s.directory key = none → s.directory.length < 1024) →
      appendRefusal s key expected len = if spanFits s.log (payloadW len) then none else some .noSpace) := by
  refine ⟨fun hm => ?_, fun hm hf hl => ?_, fun hm hroom => ?_⟩
  · simp [appendRefusal, hm]
  · simp only [hf] at hm
    simp [appendRefusal, hm, hf, Config.directoryMax, hl]
  · have hnot : ¬ ((dirFind s.directory key).isNone = true ∧ Config.directoryMax ≤ s.directory.length) := by
      rintro ⟨hnone, hfull⟩
      have := hroom (by simpa using hnone)
      simp only [Config.directoryMax] at hfull
      omega
    simp only [appendRefusal, hm, Bool.not_true, Bool.false_eq_true, if_false, hnot]
    cases spanFits s.log (payloadW len) <;> rfl

/-- The start checks of a DELETE in their order (R52). -/
theorem deleteRefusal_cases (s : State) (key : Nat) (expected : Option Nat) :
    ((∀ e, dirFind s.directory key = some e → e.state = .deleted) →
      deleteRefusal s key expected = some .notFound) ∧
    (∀ e, dirFind s.directory key = some e → e.state ≠ .deleted →
      (expectedMet expected (some e) = false → deleteRefusal s key expected = some .stale) ∧
      (expectedMet expected (some e) = true →
        deleteRefusal s key expected = if spanFits s.log 0 then none else some .noSpace)) := by
  refine ⟨fun hgone => ?_, fun e hf hne => ⟨fun hm => ?_, fun hm => ?_⟩⟩
  · cases hf : dirFind s.directory key with
    | none => simp [deleteRefusal, hf]
    | some e => simp [deleteRefusal, hf, hgone e hf]
  · simp [deleteRefusal, hf, hne, hm]
  · simp only [deleteRefusal, hf, hne, if_false, hm, Bool.not_true, Bool.false_eq_true]
    cases spanFits s.log 0 <;> rfl

/-- Table 3-6, entry by entry. -/
theorem expectedMet_table (e : DirEntry) (n : Nat) :
    expectedMet none none = true ∧ expectedMet none (some e) = true ∧ expectedMet (some 0) none = true ∧
    (expectedMet (some 0) (some e) = true ↔ e.state = .deleted ∨ e.state = .lost) ∧
    expectedMet (some (n + 1)) none = false ∧
    (expectedMet (some (n + 1)) (some e) = true ↔ (e.state = .live ∨ e.state = .deleted) ∧ e.seq = n + 1) := by
  cases hs : e.state <;> simp [expectedMet, hs]

/-- Settles O48: the refusals in the order of R51 and R52, else the first attempt; and Table 3-6. -/
theorem recordJobStarts : Obligations.RecordJobStarts := by
  unfold Obligations.RecordJobStarts
  refine ⟨fun s j rest hhead hpass => ⟨?append, ?delete⟩, expectedMet_table⟩
  case append =>
    rintro key expected payload hkind _ rfl
    have hexec : ∀ {t}, startAppend j key expected payload (checking s j rest) = t →
        exec .engineTakeJob s = .next t := by
      rintro _ rfl
      rw [exec_engineTakeJob_passed hhead hpass, startKind, hkind]
    have hrefuse : ∀ {code}, appendRefusal s key expected payload.length = some code →
        exec .engineTakeJob s = .next (endedAtStart s j rest code) := by
      intro code hcode
      have hcode' : appendRefusal (checking s j rest) key expected payload.length = some code := hcode
      exact hexec (by rw [startAppend, hcode']; exact finish_checking s j rest code)
    obtain ⟨hstale, hfull, hspace⟩ := appendRefusal_cases s key expected payload.length
    refine ⟨fun hm => hrefuse (hstale hm), fun hm hf hl => hrefuse (hfull hm hf hl),
      fun hm hroom => ⟨fun hno => hrefuse ?_, fun hpoint hseq => hexec ?_⟩⟩
    · have hfit : ¬ spanFits s.log (payloadW payload.length) = true := by
        rw [spanFits_iff, payloadW]; omega
      rw [hspace hm hroom, if_neg hfit]
    · have hfit : spanFits s.log (payloadW payload.length) = true := by
        rw [spanFits_iff, payloadW]; omega
      have hnone : appendRefusal (checking s j rest) key expected payload.length = none :=
        (hspace hm hroom).trans (if_pos hfit)
      rw [startAppend, hnone]
      exact beginAttempt_checking rest (by rw [hkind]; rfl) hpass.1 hfit
  case delete =>
    intro key expected hkind
    have hexec : ∀ {t}, startDelete j key expected (checking s j rest) = t →
        exec .engineTakeJob s = .next t := by
      rintro _ rfl
      rw [exec_engineTakeJob_passed hhead hpass, startKind, hkind]
    have hrefuse : ∀ {code}, deleteRefusal s key expected = some code →
        exec .engineTakeJob s = .next (endedAtStart s j rest code) := by
      intro code hcode
      have hcode' : deleteRefusal (checking s j rest) key expected = some code := hcode
      exact hexec (by rw [startDelete, hcode']; exact finish_checking s j rest code)
    obtain ⟨hgone, hpresent⟩ := deleteRefusal_cases s key expected
    refine ⟨fun h => hrefuse (hgone h), fun e hf hne => ⟨fun hm => hrefuse ((hpresent e hf hne).1 hm),
      fun hm => ⟨fun hno => hrefuse ?_, fun hpoint hseq => hexec ?_⟩⟩⟩
    · have hfit : ¬ spanFits s.log 0 = true := by rw [spanFits_iff]; omega
      rw [(hpresent e hf hne).2 hm, if_neg hfit]
    · have hfit : spanFits s.log 0 = true := by rw [spanFits_iff]; omega
      have hnone : deleteRefusal (checking s j rest) key expected = none :=
        ((hpresent e hf hne).2 hm).trans (if_pos hfit)
      rw [startDelete, hnone]
      exact beginAttempt_checking rest (by rw [hkind]; rfl) hpass.1 hfit

/-! ### COUNT-ADVANCE and COUNT-RAISE (R84 to R86, R89) -/

/-- The cells of a thermometer step, position by position (R86). -/
theorem getLsbD_stepCells (w : CounterWork) {i : Nat} (hi : i < 32) :
    (stepCells w).getLsbD i =
      decide (w.nextPos % 32 ≤ i ∧ i < w.nextPos % 32 + min w.remaining (32 - w.nextPos % 32)) := by
  simp only [stepCells, BitVec.getLsbD_ofNat, hi, decide_true, Bool.true_and, Nat.testBit_mul_two_pow,
    Nat.testBit_two_pow_sub_one, stepCount, ← Bool.decide_and]
  congr 1
  simp only [eq_iff_iff]
  omega

/-- The room of a counter with a strip, from the position after its highest (chapter 5 section 5.3). -/
theorem counterRoom_of_strip {e : CounterEntry} {strip : Nat} (h : e.strip = some strip) :
    counterRoom e = 192 - afterHighest e.highest := by
  cases hh : e.highest with
  | none => simp [counterRoom, h, hh, afterHighest]
  | some x => simp [counterRoom, h, hh, afterHighest]

theorem afterHighest_eq (highest : Option Nat) :
    afterHighest highest = match highest with | none => 0 | some h => h + 1 := by
  cases highest <;> rfl

theorem thermometerWord_eq (strip pos : Nat) : thermometerWord strip pos = 38 + 8 * strip + 2 + pos / 32 := by
  unfold thermometerWord stripWord Config.poolStart
  omega

/-- An advance past the counter's start checks goes on in its strip (R84, R86). -/
theorem startAdvance_inStrip {s : State} {c n strip : Nat} (hen : s.pgmEn = true) (hn : 1 ≤ n)
    (hvalue : (counterEntry s c).value + n ≤ 16777215) (hstrip : (counterEntry s c).strip = some strip)
    (hroom : afterHighest (counterEntry s c).highest + n ≤ 192) :
    startAdvance c n s =
      prepare (thermometerWord strip (afterHighest (counterEntry s c).highest)) (stepCells (counterWork s c n))
        (setWork (.counter (counterWork s c n)) s) := by
  have hin : n ≤ counterRoom (counterEntry s c) := by rw [counterRoom_of_strip hstrip]; omega
  have hrefuse : advanceRefusal s c n = none := by
    have hvalue' : ¬ Config.counterMax < (counterEntry s c).value + n := by
      simp only [Config.counterMax]; omega
    have hlow : ¬ counterRoom (counterEntry s c) < n := by omega
    simp [advanceRefusal, hvalue', hstrip, hlow]
  have hpos : ¬ Config.stripPositions ≤ (counterWork s c n).nextPos := by
    simp only [Config.stripPositions, counterWork]; omega
  have hremaining : ¬ (counterWork s c n).remaining = 0 := by simp only [counterWork]; omega
  have hstrip' : (counterEntry s (counterWork s c n).counter).strip = some strip := hstrip
  simp only [startAdvance, hrefuse, hstrip, hin, Option.isSome_some, and_self, if_true, counterStep, hremaining,
    if_false, hpos, hstrip']
  exact sampled_high (by simpa using hen) _

/-- An advance past the counter's start checks opens a strip when its own has no room (R84, R89). -/
theorem startAdvance_opens {s : State} {c n : Nat} (hen : s.pgmEn = true) (hn : 1 ≤ n)
    (hvalue : (counterEntry s c).value + n ≤ 16777215)
    (hroom : (counterEntry s c).strip = none ∨ 192 < afterHighest (counterEntry s c).highest + n) :
    (512 ≤ s.log.stripCursor → startAdvance c n s = finish .noStrip false s) ∧
    (s.log.stripCursor < 512 → startAdvance c n s =
      openStrip (counterWork s c n) (setWork (.counter (counterWork s c n)) s)) := by
  have hvalue' : ¬ Config.counterMax < (counterEntry s c).value + n := by simp only [Config.counterMax]; omega
  have hlow : (counterEntry s c).strip = none ∨ counterRoom (counterEntry s c) < n := by
    cases hstrip : (counterEntry s c).strip with
    | none => exact .inl rfl
    | some strip =>
      rw [hstrip] at hroom
      rw [counterRoom_of_strip hstrip]
      have := hroom.resolve_left (by simp)
      exact .inr (by omega)
  refine ⟨fun hfull => ?_, fun hfree => ?_⟩
  · have hrefuse : advanceRefusal s c n = some .noStrip := by
      simp [advanceRefusal, hvalue', hlow, Config.stripCount, hfull]
    rw [startAdvance, hrefuse]
  · have hfull : ¬ 512 ≤ s.log.stripCursor := by omega
    have hrefuse : advanceRefusal s c n = none := by
      simp [advanceRefusal, hvalue', Config.stripCount, hfull]
    have hout : ¬ ((counterEntry s c).strip.isSome = true ∧ n ≤ counterRoom (counterEntry s c)) := by
      rintro ⟨hsome, hin⟩
      rcases hlow with h | h
      · simp [h] at hsome
      · omega
    simp only [startAdvance, hrefuse, hout, if_false, beginOpen]
    exact sampled_high (by simpa using hen) _

/-- A COUNT-RAISE above the value is an advance by the difference (R85). -/
theorem startRaise_above (s : State) (c : Nat) {n : Nat} (hn : 1 ≤ n) :
    startRaise c ((counterEntry s c).value + n) s = startAdvance c n s := by
  rw [startRaise, if_neg (by omega), Nat.add_sub_cancel_left]

/-- The start of an advance on the state of the start checks, in its strip or in the next one (R84, R86, R89). -/
theorem startAdvance_checking {s : State} {j : Job} (rest : List Job) {c n pos : Nat} (hen : s.pgmEn = true)
    (hn : 1 ≤ n) (hvalue : (counterEntry s c).value + n ≤ 16777215)
    (hpos : pos = afterHighest (counterEntry s c).highest) :
    (∀ strip, (counterEntry s c).strip = some strip → pos + n ≤ 192 →
      ∃ cells : Word,
        (∀ i < 32, cells.getLsbD i = decide (pos % 32 ≤ i ∧ i < pos % 32 + min n (32 - pos % 32))) ∧
        startAdvance c n (checking s j rest) =
          waitingFor s j rest
            (.counter ⟨c, (counterEntry s c).value, (counterEntry s c).value + n, n, pos, 0, none⟩)
            (38 + 8 * strip + 2 + pos / 32) cells) ∧
    ((counterEntry s c).strip = none ∨ 192 < pos + n →
      (512 ≤ s.log.stripCursor → startAdvance c n (checking s j rest) = endedAtStart s j rest .noStrip) ∧
      (s.log.stripCursor < 512 →
        startAdvance c n (checking s j rest) =
          { waitingFor s j rest
              (.counter
                ⟨c, (counterEntry s c).value, (counterEntry s c).value + n, n, pos, 1,
                  some (s.log.stripCursor, .base)⟩)
              (38 + 8 * s.log.stripCursor) (encodeBase ((counterEntry s c).value + n)) with
            log := { s.log with stripCursor := s.log.stripCursor + 1 } })) := by
  subst hpos
  have hen' : (checking s j rest).pgmEn = true := hen
  refine ⟨fun strip hstrip hroom => ?_, fun hroom => ?_⟩
  · refine ⟨stepCells (counterWork s c n), fun i hi => getLsbD_stepCells _ hi, ?_⟩
    rw [startAdvance_inStrip hen' hn hvalue hstrip hroom, thermometerWord_eq]
    rfl
  · obtain ⟨hfull, hfree⟩ := startAdvance_opens hen' hn hvalue hroom
    refine ⟨fun h => ?_, fun h => ?_⟩
    · rw [hfull h, finish_checking]
    · have hcursor : ¬ Config.stripCount ≤ s.log.stripCursor := by simp only [Config.stripCount]; omega
      rw [hfree h]
      exact (if_neg hcursor).trans rfl

/-- Settles O49: the checks of R84 and R85 in order, then the strip's next step or the next strip. -/
theorem counterJobStarts : Obligations.CounterJobStarts := by
  unfold Obligations.CounterJobStarts
  rintro s j rest c _ hhead hpass rfl
  have hexec := exec_engineTakeJob_passed hhead hpass
  refine ⟨fun v hkind hv => ?_, fun n hn hkind => ?_⟩
  · rw [hexec, startKind, hkind]
    exact congrArg Host.Outcome.next ((if_pos hv).trans (finish_checking s j rest .ok))
  · have hadvance : exec .engineTakeJob s = .next (startAdvance c n (checking s j rest)) := by
      rw [hexec, startKind]
      rcases hkind with hkind | hkind
      · rw [hkind]
      · rw [hkind]
        exact congrArg Host.Outcome.next (startRaise_above (checking s j rest) c hn)
    rw [hadvance]
    simp only [Host.Outcome.next.injEq]
    refine ⟨fun hlimit => ?_, fun hvalue => ⟨fun strip hstrip pos hpos => ?_, ?_⟩⟩
    · have hrefuse : advanceRefusal (checking s j rest) c n = some .limit := if_pos hlimit
      rw [startAdvance, hrefuse]
      exact finish_checking s j rest .limit
    · exact (startAdvance_checking rest hpass.1 hn hvalue (hpos.trans (afterHighest_eq _).symm)).1 strip hstrip
    · exact (startAdvance_checking rest hpass.1 hn hvalue (afterHighest_eq _).symm).2

/-! ### Policy jobs and repairs (R40, R108, R125 to R127) -/

/-- A policy job's one sequence (R108). -/
theorem startPolicy_checking {s : State} {j : Job} (rest : List Job) {word : Nat} {cells : Word}
    (hrequest : policyRequest j.kind = some (word, cells)) (hen : s.pgmEn = true) :
    startPolicy j (checking s j rest) = waitingFor s j rest (.policy false) word (copyWord s word ||| cells) := by
  unfold startPolicy
  rw [hrequest]
  exact (sampled_high (by exact hen) _).trans rfl

/-- Settles O50: the one sequence of Table 6-4, and that of a repair. -/
theorem policyAndRepairStart : Obligations.PolicyAndRepairStart := by
  unfold Obligations.PolicyAndRepairStart
  refine ⟨fun s j rest hhead hpass => ⟨?_, fun marks hkind => ?_, fun hkind => ?_⟩,
    fun s e rest hready hidle hjobs hen hlist => ?_⟩
  · rintro target marks hkind _ rfl
    rw [exec_engineTakeJob_passed hhead hpass, startKind, hkind]
    have hrequest : policyRequest j.kind = some (targetIndex target, marks.setWidth 32) := by rw [hkind]; rfl
    cases target <;> exact congrArg Host.Outcome.next (startPolicy_checking rest hrequest hpass.1)
  · rw [exec_engineTakeJob_passed hhead hpass, startKind, hkind]
    have hrequest : policyRequest j.kind = some (1, marks.setWidth 32) := by rw [hkind]; rfl
    exact congrArg Host.Outcome.next (startPolicy_checking rest hrequest hpass.1)
  · rw [exec_engineTakeJob_passed hhead hpass, startKind, hkind]
    have hrequest : policyRequest j.kind = some (0, BitVec.allOnes 32) := by rw [hkind]; rfl
    have hall : copyWord s 0 ||| BitVec.allOnes 32 = BitVec.allOnes 32 := BitVec.or_allOnes
    rw [← hall]
    exact congrArg Host.Outcome.next (startPolicy_checking rest hrequest hpass.1)
  · change execEngineTakeRepair s = _
    simp only [execEngineTakeRepair, hready, hidle, hjobs, hen, and_self, if_true, hlist]
    cases hk : e.kind <;> simp [takeRepair, prepare, enterClaim, Engine.resting, repairTarget, hk, hready, hjobs, hen]

end Sys2Proof.Machine
end

section
/-! What every part of the engine keeps: a property that its own operations keep is kept by the start of a job and by
the outcome of a sequence, whichever way the job goes (R31 to R37, R54 to R60, R84 to R93, R108 to R110, R125). -/

namespace Sys2Proof.Machine

/-- `P` is kept by each operation that the engine's decisions are made of. -/
structure EngineKeeps (P : State → Prop) : Prop where
  ends : ∀ code weak s, P s → P (finish code weak s)
  prepares : ∀ word target s, P s → P (prepare word target s)
  works : ∀ w s, P s → P (setWork w s)
  logs : ∀ l s, P s → P { s with log := l }
  counts : ∀ e s, P s → P (setCounter e s)
  updates : ∀ j word v s, P s → P (policyUpdate j word v s)
  commits : ∀ key kind j sp s, P s → P (commitPoint key kind j sp s)
  repairs : ∀ r s, P s → P { s with engine := Engine.resting, repair := r }

namespace EngineKeeps

variable {P : State → Prop}

theorem abandon (k : EngineKeeps P) {s : State} (h : P s) : P (abandon s) := by
  rcases abandon_eq s with e | e <;> rw [e]
  · exact k.ends _ _ _ h
  · exact k.ends _ _ _ h

theorem sampled (k : EngineKeeps P) {go : State → State} {s : State} (hgo : P s → P (go s)) (h : P s) :
    P (sampled go s) := by
  unfold Machine.sampled
  split
  · exact hgo h
  · exact k.abandon h

/-! ### APPEND and DELETE -/

theorem prepareRecordWord (k : EngineKeeps P) (w : RecordWork) (sp : Span) (next : RecordWord) {s : State} (h : P s) :
    P (prepareRecordWord w sp next s) := k.prepares _ _ _ (k.works _ _ h)

theorem beginAttempt (k : EngineKeeps P) (w : RecordWork) (j : Job) {s : State} (h : P s) :
    P (beginAttempt w j s) := by
  unfold Machine.beginAttempt
  split
  · exact h
  · refine k.sampled (fun h => ?_) h
    split
    · exact k.prepareRecordWord _ _ _ (k.logs _ _ h)
    · exact k.ends _ _ _ h

theorem startAppend (k : EngineKeeps P) (j : Job) (key : Nat) (expected : Option Nat) (payload : List Byte)
    {s : State} (h : P s) : P (startAppend j key expected payload s) := by
  unfold Machine.startAppend
  split
  · exact k.ends _ _ _ h
  · exact k.beginAttempt _ j (k.works _ _ h)

theorem startDelete (k : EngineKeeps P) (j : Job) (key : Nat) (expected : Option Nat) {s : State} (h : P s) :
    P (startDelete j key expected s) := by
  unfold Machine.startDelete
  split
  · exact k.ends _ _ _ h
  · exact k.beginAttempt _ j (k.works _ _ h)

theorem relocate (k : EngineKeeps P) (w : RecordWork) (j : Job) {s : State} (h : P s) : P (relocate w j s) := by
  unfold Machine.relocate
  split
  · exact k.beginAttempt w j h
  · exact k.ends _ _ _ h

theorem retireStep (k : EngineKeeps P) (w : RecordWork) (sp : Span) {s : State} (h : P s) :
    P (retireStep w sp s) := by
  unfold Machine.retireStep
  split
  · exact k.ends _ _ _ h
  · split
    · exact k.prepareRecordWord _ _ _ h
    · exact k.ends _ _ _ (k.works _ _ h)

theorem headerOutcome (k : EngineKeeps P) (w : RecordWork) (sp : Span) (j : Job) (o : SeqOutcome) {s : State}
    (h : P s) : P (headerOutcome w sp j o s) := by
  unfold Machine.headerOutcome
  split
  · exact k.sampled (k.prepareRecordWord w sp _) h
  · exact k.relocate w j (k.logs _ _ h)
  · exact k.abandon (k.logs _ _ h)

theorem bodyOutcome (k : EngineKeeps P) (w : RecordWork) (sp : Span) (j : Job) (o : SeqOutcome) {s : State}
    (h : P s) : P (bodyOutcome w sp j o s) := by
  unfold Machine.bodyOutcome
  split
  · exact k.sampled (k.prepareRecordWord w sp _) h
  · exact k.relocate w j h
  · exact k.abandon h

theorem commitOutcome (k : EngineKeeps P) (w : RecordWork) (sp : Span) (j : Job) (o : SeqOutcome) {s : State}
    (h : P s) : P (commitOutcome w sp j o s) := by
  unfold Machine.commitOutcome
  split
  · split
    · exact h
    · exact k.retireStep _ sp (k.commits _ _ j sp _ h)
  · split
    · exact k.sampled (k.prepareRecordWord w sp _) h
    · exact k.relocate w j h
  · exact k.abandon h

theorem selfRetireOutcome (k : EngineKeeps P) (w : RecordWork) (j : Job) (o : SeqOutcome) {s : State} (h : P s) :
    P (selfRetireOutcome w j o s) := by
  unfold Machine.selfRetireOutcome
  split
  · exact k.relocate w j h
  · exact k.relocate w j h
  · exact k.abandon h

theorem recordOutcome (k : EngineKeeps P) (w : RecordWork) (j : Job) (o : SeqOutcome) {s : State} (h : P s) :
    P (recordOutcome w j o s) := by
  unfold Machine.recordOutcome
  split
  · exact h
  · split
    · exact k.headerOutcome w _ j o h
    · exact k.bodyOutcome w _ j o h
    · exact k.bodyOutcome w _ j o h
    · exact k.bodyOutcome w _ j o h
    · exact k.commitOutcome w _ j o h
    · exact k.selfRetireOutcome w j o h
    · exact k.ends _ _ _ h

/-! ### COUNT-ADVANCE and COUNT-RAISE -/

theorem endShort (k : EngineKeeps P) (w : CounterWork) (code : Code) {s : State} (h : P s) :
    P (endShort w code s) := by
  unfold Machine.endShort
  split
  · exact k.ends _ _ _ h
  · exact k.ends _ _ _ h

theorem openStrip (k : EngineKeeps P) (w : CounterWork) {s : State} (h : P s) : P (openStrip w s) := by
  unfold Machine.openStrip
  dsimp only
  split
  · exact k.endShort w _ h
  · exact k.prepares _ _ _ (k.works _ _ (k.logs _ _ h))

theorem beginOpen (k : EngineKeeps P) (w : CounterWork) {s : State} (h : P s) : P (beginOpen w s) :=
  k.sampled (k.openStrip w) (k.works _ _ h)

theorem counterStep (k : EngineKeeps P) (w : CounterWork) {s : State} (h : P s) : P (counterStep w s) := by
  unfold Machine.counterStep
  split
  · exact k.ends _ _ _ (k.works _ _ h)
  · split
    · exact k.beginOpen w h
    · split
      · exact k.beginOpen w h
      · exact k.sampled (k.prepares _ _ _) (k.works _ _ h)

theorem startAdvance (k : EngineKeeps P) (c n : Nat) {s : State} (h : P s) : P (startAdvance c n s) := by
  unfold Machine.startAdvance
  split
  · exact k.ends _ _ _ h
  · dsimp only
    split
    · exact k.counterStep _ h
    · exact k.beginOpen _ h

theorem startRaise (k : EngineKeeps P) (c v : Nat) {s : State} (h : P s) : P (startRaise c v s) := by
  unfold Machine.startRaise
  split
  · exact k.ends _ _ _ h
  · exact k.startAdvance c _ h

theorem thermometerOutcome (k : EngineKeeps P) (w : CounterWork) (o : SeqOutcome) {s : State} (h : P s) :
    P (thermometerOutcome w o s) := by
  unfold Machine.thermometerOutcome
  dsimp only
  split
  · exact k.counterStep _ (k.works _ _ (k.counts _ _ h))
  · exact k.counterStep _ (k.works _ _ (k.counts _ _ h))
  · exact k.abandon (k.works _ _ (k.counts _ _ h))

theorem retryOpen (k : EngineKeeps P) (w : CounterWork) {s : State} (h : P s) : P (retryOpen w s) := by
  unfold Machine.retryOpen
  split
  · exact k.beginOpen _ h
  · exact k.endShort w _ h

theorem baseOutcome (k : EngineKeeps P) (w : CounterWork) (strip : Nat) (o : SeqOutcome) {s : State} (h : P s) :
    P (baseOutcome w strip o s) := by
  have hback : P (if o.normal = 0#32 then returnCursor strip s else s) := by
    split
    · exact k.logs _ _ h
    · exact h
  unfold Machine.baseOutcome
  dsimp only
  split
  · exact k.sampled (fun h => k.prepares _ _ _ (k.works _ _ h)) h
  · exact k.retryOpen w hback
  · exact k.abandon hback

theorem switchStrip (k : EngineKeeps P) (w : CounterWork) (strip : Nat) {s : State} (h : P s) :
    P (switchStrip w strip s) := k.ends _ _ _ (k.works _ _ (k.counts _ _ h))

theorem claimOutcome (k : EngineKeeps P) (w : CounterWork) (strip : Nat) (o : SeqOutcome) {s : State} (h : P s) :
    P (claimOutcome w strip o s) := by
  unfold Machine.claimOutcome
  dsimp only
  split
  · exact k.switchStrip w strip h
  · split
    · split
      · exact k.prepares _ _ _ (k.works _ _ h)
      · exact k.switchStrip w strip h
    · exact k.retryOpen w h
  · split
    · exact k.switchStrip w strip h
    · exact k.abandon h

theorem voidOutcome (k : EngineKeeps P) (w : CounterWork) (strip : Nat) (o : SeqOutcome) {s : State} (h : P s) :
    P (voidOutcome w strip o s) := by
  unfold Machine.voidOutcome
  split
  · exact k.switchStrip w strip h
  · split
    · exact k.retryOpen w h
    · exact k.retryOpen w h
    · exact k.abandon h

theorem counterOutcome (k : EngineKeeps P) (w : CounterWork) (o : SeqOutcome) {s : State} (h : P s) :
    P (counterOutcome w o s) := by
  unfold Machine.counterOutcome
  split
  · exact k.thermometerOutcome w o h
  · exact k.baseOutcome w _ o h
  · exact k.claimOutcome w _ o h
  · exact k.voidOutcome w _ o h

/-! ### Policy jobs and repairs -/

theorem startPolicy (k : EngineKeeps P) (j : Job) {s : State} (h : P s) : P (startPolicy j s) := by
  unfold Machine.startPolicy
  split
  · exact h
  · exact k.sampled (k.prepares _ _ _) (k.works _ _ h)

theorem policyOutcome (k : EngineKeeps P) (j : Job) (o : SeqOutcome) {s : State} (h : P s) :
    P (policyOutcome j o s) := by
  unfold Machine.policyOutcome
  split
  · exact h
  · exact k.ends _ _ _ (k.works _ _ (k.updates j _ _ _ h))

theorem repairOutcome (k : EngineKeeps P) (e : RepairEntry) (o : SeqOutcome) {s : State} (h : P s) :
    P (repairOutcome e o s) := by
  unfold Machine.repairOutcome
  split
  · exact k.repairs s.repair s h
  · exact k.repairs _ s h
  · exact k.repairs _ s h

/-! ### The whole engine -/

/-- The start of a job keeps what the engine's operations keep. -/
theorem startChecks (k : EngineKeeps P) (j : Job) {s : State} (h : P s) : P (startChecks j s) := by
  rcases startChecks_cases j s with ⟨code, e⟩ | ⟨-, -, -, e⟩
  · rw [e]; exact k.ends _ _ _ h
  · rw [e, startKind]
    split
    · exact k.startAppend j _ _ _ h
    · exact k.startDelete j _ _ h
    · exact k.startAdvance _ _ h
    · exact k.startRaise _ _ h
    · exact k.startPolicy j h
    · exact k.startPolicy j h
    · exact k.startPolicy j h

/-- A sequence's outcome keeps what the engine's operations keep. -/
theorem handOver (k : EngineKeeps P) (o : SeqOutcome) {s : State} (h : P s) : P (handOver o s) := by
  unfold Machine.handOver
  split
  · exact k.repairOutcome _ o h
  · split
    · exact h
    · split
      · exact k.recordOutcome _ _ o h
      · exact k.counterOutcome _ o h
      · exact k.policyOutcome _ o h
      · exact h

end EngineKeeps

/-! ### What one end, one notice or one policy update leaves -/

theorem sameBlocks_enterLevel (p : Port) (s : State) : SameBlocks s (enterLevel p s) := by
  unfold enterLevel
  rw [judgeLevel_eq]
  exact (sameBlocks_setPort s p _).trans (sameBlocks_setPort _ p _)

theorem port_enterLevel_other {p r : Port} (h : r ≠ p) (s : State) : (enterLevel p s).port r = s.port r := by
  unfold enterLevel
  rw [judgeLevel_eq, State.port_setPort_other _ _ h, State.port_setPort_other _ _ h]

theorem sameBlocks_foldEnterLevel : ∀ (ps : List Port) (s : State),
    SameBlocks s (ps.foldl (fun t p => enterLevel p t) s)
  | [], s => SameBlocks.refl s
  | p :: ps, s => (sameBlocks_enterLevel p s).trans (sameBlocks_foldEnterLevel ps _)

theorem sameBlocks_enterNewLevels (word : Nat) (old new : Word) (s : State) :
    SameBlocks s (enterNewLevels word old new s) := by
  unfold enterNewLevels
  split
  · exact sameBlocks_foldEnterLevel _ s
  · exact SameBlocks.refl s

/-- FINISHING leaves every block but the engine, the active job's port its result, and the ports its notices (R37). -/
theorem finish_blocks {s : State} {j : Job} (h : s.engine.job = some j) (code : Code) (weak : Bool) :
    SameBlocks { s with engine := Engine.resting } (finish code weak s) ∧
    ∀ p, (finish code weak s).port p =
      if p = j.port then
        jobEnded (alertLevel s p) j.orphan (jobResult s j code weak) ((finishNotices j s).port p)
      else (finishNotices j s).port p := by
  have same := (sameBlocks_finishNotices j s).trans
    (sameBlocks_deliverResult j.port j.orphan (jobResult s j code weak) (finishNotices j s))
  rw [finish_eq h]
  refine ⟨⟨same.array, same.powered, same.rstLow, same.pgmEn, same.portCAdr, same.device, same.mount, same.policy,
    same.directory, same.counters, same.log, same.repair, rfl, same.jobs, same.arbiter, same.audit,
    same.lastSelector, same.pending⟩, fun p => ?_⟩
  have hport : ∀ t : State, State.port { t with engine := Engine.resting } p = t.port p := by
    intro t; cases p <;> rfl
  rw [hport]
  split
  · next hp =>
    subst hp
    rw [port_deliverResult_jobEnded]
    have hlevel : alertLevel (finishNotices j s) j.port = alertLevel s j.port :=
      levelMode_congr (sameBlocks_finishNotices j s).policy j.port
    rw [hlevel]
  · next hp => exact port_deliverResult_other hp _ _ _

/-- With no job in hand there is nothing to finish. -/
theorem finish_of_no_job {s : State} (h : s.engine.job = none) (code : Code) (weak : Bool) : finish code weak s = s := by
  simp only [finish, h]

end Sys2Proof.Machine
end

section
/-! Grants, bursts, pulses, repairs and policy sequences (R10 to R19, R109, R110, R125 to R127, R133, R134). -/

namespace Sys2Proof.Machine

/-! ### The grant of a reader (R133, Table 8-2) -/

/-- What a granted reader's lookup answers at once, and when it must hold the array (Table 8-2). -/
theorem burstAnswer_cases (s : State) (p : Port) (key : Nat) :
    (keyDenied s p key = true → burstAnswer s p key = some (.denied, [])) ∧
    (keyDenied s p key = false →
      (dirFind s.directory key = none → burstAnswer s p key = some (.notFound, [])) ∧
      (∀ e, dirFind s.directory key = some e →
        (e.state = .deleted → burstAnswer s p key = some (.deleted, readGoneBody e)) ∧
        (e.state = .lost → burstAnswer s p key = some (.lost, readGoneBody e)) ∧
        (e.state = .live → e.w = 0 → burstAnswer s p key = some (.data, readDataBody e [])) ∧
        (e.state = .live → e.w ≠ 0 → burstAnswer s p key = none))) := by
  refine ⟨fun hd => by simp [burstAnswer, hd], fun hd => ⟨fun hf => by simp [burstAnswer, hd, hf], fun e hf => ?_⟩⟩
  simp only [burstAnswer, hd, hf, Bool.false_eq_true, if_false]
  exact ⟨fun hs => by rw [hs], fun hs => by rw [hs], fun hs hw => by rw [hs]; simp [hw],
    fun hs hw => by rw [hs]; simp [hw]⟩

theorem grantReader_answered {s : State} {p : Port} {r : ReadInHand} (hslot : (s.port p).slot = .working r)
    {code : Code} {body : List Byte} (h : burstAnswer s p r.key = some (code, body)) :
    grantReader p s = answer p (commandCode .read) r.tag code body s := by
  simp only [grantReader, hslot, h]

theorem grantReader_holds {s : State} {p : Port} {r : ReadInHand} (hslot : (s.port p).slot = .working r)
    (h : burstAnswer s p r.key = none) {e : DirEntry} (hfind : dirFind s.directory r.key = some e) :
    grantReader p s = { s with arbiter := { s.arbiter with holder := .reader p e } } := by
  simp only [grantReader, hslot, h, hfind]

theorem grantee_eq_some {a : Arbiter} {who : Claimant}
    (h : a.decided = some who ∨ a.decided = none ∧ chooseClaimant a = some who) : grantee a = some who := by
  rcases h with h | ⟨h, hc⟩
  · exact grantee_of_decided h
  · exact (grantee_of_undecided h).trans hc

/-- The DATA item of an entry without payload words (R133). -/
theorem readDataBody_empty {e : DirEntry} (h : e.w = 0) :
    readDataBody e [] = leBytes e.key 2 ++ leBytes e.seq 4 ++ [portByte e.writer, 0x00#8] := by
  simp [readDataBody, payloadLength, h]

/-- A READ in hand at port `p` is due the grant of a READY part's free array. -/
def readerDue (p : Port) (s : State) : Prop :=
  s.device = .ready ∧ s.arbiter.holder = .none ∧ grantee s.arbiter = some (.reader p)

theorem readerDue_congr {p : Port} {s t : State} (hdevice : t.device = s.device) (harbiter : t.arbiter = s.arbiter)
    (h : readerDue p s) : readerDue p t := by
  unfold readerDue
  rw [hdevice, harbiter]
  exact h

theorem readerDue_of_sameBlocks {p : Port} {s t : State} (same : SameBlocks s t) (h : readerDue p s) :
    readerDue p t := readerDue_congr same.device same.arbiter h

theorem readerDue_finish {p : Port} {s : State} (code : Code) (weak : Bool) (h : readerDue p s) :
    readerDue p (finish code weak s) := by
  cases hjob : s.engine.job with
  | none => rwa [finish_of_no_job hjob]
  | some j =>
    have same := (finish_blocks hjob code weak).1
    exact readerDue_congr same.device same.arbiter h

theorem sameBlocks_policyUpdate (j : Job) (word : Nat) (new : Word) (s : State) :
    SameBlocks { s with policy := s.policy.set word new } (policyUpdate j word new s) := by
  unfold policyUpdate
  refine SameBlocks.trans ?_ (sameBlocks_enterNewLevels _ _ _ _)
  split
  · exact SameBlocks.refl _
  · exact sameBlocks_postNotice _ _

theorem sameBlocks_commitPoint (key : Nat) (kind : RecordKind) (j : Job) (sp : Span) (s : State) :
    SameBlocks { s with directory := dirPut s.directory (committedEntry key kind j sp) }
      (commitPoint key kind j sp s) := sameBlocks_postNotice _ _

/-- A grant due to a reader stays due, whatever work the engine begins. -/
theorem engineKeeps_readerDue (p : Port) : EngineKeeps (readerDue p) where
  ends code weak _ h := readerDue_finish code weak h
  prepares _ _ _ h := ⟨h.1, h.2.1, grantee_claimEntered _ h.2.1 h.2.2⟩
  works _ _ h := readerDue_congr rfl rfl h
  logs _ _ h := readerDue_congr rfl rfl h
  counts _ _ h := readerDue_congr rfl rfl h
  updates j word v s h := readerDue_of_sameBlocks (sameBlocks_policyUpdate j word v s) (readerDue_congr rfl rfl h)
  commits key kind j sp s h :=
    readerDue_of_sameBlocks (sameBlocks_commitPoint key kind j sp s) (readerDue_congr rfl rfl h)
  repairs _ _ h := readerDue_congr rfl rfl h

/-- ENGINE_TAKE_JOB always completes, and leaves the grant a reader is due. -/
theorem exec_engineTakeJob_readerDue {p : Port} {s : State} (h : readerDue p s) :
    ∃ t, exec .engineTakeJob s = .next t ∧ readerDue p t := by
  change ∃ t, execEngineTakeJob s = .next t ∧ _
  unfold execEngineTakeJob
  split
  · split
    · exact ⟨s, rfl, h⟩
    · next j rest _ =>
      exact ⟨_, rfl, (engineKeeps_readerDue p).startChecks j (readerDue_congr rfl rfl h)⟩
  · exact ⟨s, rfl, h⟩

/-- The grant a reader is due: it becomes the last served, its claim is removed, no other claim is touched. -/
theorem exec_arrayGrant_readerDue {p : Port} {s : State} (h : readerDue p s) :
    ∃ t, exec .arrayGrant s = .next t ∧ t.arbiter.lastServed = p ∧ t.arbiter.lastClass = .reader ∧
      t.arbiter.claims = markClaim s.arbiter.claims (.reader p) false := by
  obtain ⟨hready, hfree, hdue⟩ := h
  exact ⟨_, exec_arrayGrant_reader hready hfree hdue, by simp, by simp, by simp⟩

/-- The state after a READ frame of a READY part was taken (R131, R132). -/
def readTaken (s : State) (p : Port) (tag : Byte) (key : Nat) : State :=
  { noteSendFrame p (s.setPort p { s.port p with slot := .working ⟨tag, key⟩, reply := none }) with
    arbiter :=
      { s.arbiter with
        claims := markClaim s.arbiter.claims (.reader p) true
        decided :=
          if s.arbiter.holder = .none ∧ s.arbiter.decided = none then chooseClaimant s.arbiter
          else s.arbiter.decided } }

theorem exec_read_taken {bus : Bus} {p : Port} {s : State} {key : Nat} (htakes : Takes s bus p)
    (hready : s.device = .ready) (h1 : 1 ≤ key) (h2 : key ≤ 4094) (tag : Byte) :
    exec (.read bus (goodFrame .read tag (leBytes key 2))) s = .next (readTaken s p tag key) :=
  readEntersClaim bus p s tag key htakes hready h1 h2

theorem readTaken_frame (s : State) (p : Port) (tag : Byte) (key : Nat) :
    (readTaken s p tag key).device = s.device ∧ (readTaken s p tag key).powered = s.powered ∧
    (readTaken s p tag key).portCAdr = s.portCAdr ∧
    (readTaken s p tag key).arbiter = claimEntered (.reader p) s.arbiter := by
  cases p <;> exact ⟨rfl, rfl, rfl, rfl⟩

/-- A READ taken at one port leaves another port's slot and reach. -/
theorem takes_readTaken {s : State} {bus : Bus} {p q : Port} (h : Takes s bus q) (hne : q ≠ p) (tag : Byte)
    (key : Nat) : Takes (readTaken s p tag key) bus q := by
  obtain ⟨hreached, hfree⟩ := h
  obtain ⟨-, hpower, hadr, -⟩ := readTaken_frame s p tag key
  refine ⟨?_, ?_⟩
  · rw [← hreached]
    unfold reachedPort portCAddress
    rw [hpower, hadr]
  · have hslot : ((readTaken s p tag key).port q).slot = (s.port q).slot := by
      cases p <;> cases q <;> first | rfl | exact absurd rfl hne
    unfold slotFree at hfree ⊢
    rwa [hslot]

/-- A claim entered alone at a free array is due the grant. -/
theorem grantee_claimEntered_alone {a : Arbiter} (hfree : a.holder = .none) (hdecided : a.decided = none)
    (hclaims : a.claims = ⟨false, false, false, false, false⟩) (p : Port) :
    grantee (claimEntered (.reader p) a) = some (.reader p) := by
  rcases a with ⟨holder, claims, lastClass, lastServed, decided⟩
  dsimp only at hfree hdecided hclaims
  subst hfree hdecided hclaims
  cases p <;> cases lastServed <;> rfl

/-- A reader's claim alone pending at the free array is due the next grant. -/
theorem readerDue_readTaken {s : State} {p : Port} (hready : s.device = .ready) (hfree : s.arbiter.holder = .none)
    (hdecided : s.arbiter.decided = none) (hclaims : s.arbiter.claims = ⟨false, false, false, false, false⟩)
    (tag : Byte) (key : Nat) : readerDue p (readTaken s p tag key) := by
  obtain ⟨hdevice, -, -, harbiter⟩ := readTaken_frame s p tag key
  refine ⟨hdevice.trans hready, by rw [harbiter]; exact hfree, ?_⟩
  rw [harbiter]
  exact grantee_claimEntered_alone hfree hdecided hclaims p

/-- Settles O52: the grant by Table 8-2, the burst's end, and the first READ's grant kept through whatever comes
after it. -/
theorem readBurst : Obligations.ReadBurst := by
  unfold Obligations.ReadBurst
  refine ⟨?grant, ?burst, ?order⟩
  case grant =>
    rintro s p r _ hready hfree hdue hslot rfl
    have hexec := exec_arrayGrant_reader hready hfree (grantee_eq_some hdue)
    have hslot' : (State.port { s with arbiter := recordGrant (.reader p) s.arbiter } p).slot = .working r := by
      cases p <;> exact hslot
    have hanswer : ∀ {code body}, burstAnswer s p r.key = some (code, body) →
        exec .arrayGrant s = .next
          (answer p 0x01#8 r.tag code body { s with arbiter := recordGrant (.reader p) s.arbiter }) := by
      intro code body hb
      rw [hexec, grantReader_answered hslot' (by exact hb)]
      rfl
    obtain ⟨hdenied, hallowed⟩ := burstAnswer_cases s p r.key
    refine ⟨fun hd => hanswer (hdenied hd), fun hd => ⟨fun hf => hanswer ((hallowed hd).1 hf), fun e hf => ?_⟩⟩
    obtain ⟨hdeleted, hlost, hempty, hpayload⟩ := (hallowed hd).2 e hf
    refine ⟨fun hs => hanswer (hdeleted hs), fun hs => hanswer (hlost hs), fun hs hw => ?_, fun hs hw => ?_⟩
    · rw [← readDataBody_empty hw]
      exact hanswer (hempty hs hw)
    · rw [hexec, grantReader_holds hslot' (by exact hpayload hs hw) (by exact hf)]
  case burst =>
    rintro s p r e _ hholder hslot hword rfl
    rw [exec_readBurstEnd_of_working hholder hslot hword]
    cases p <;> rfl
  case order =>
    intro busP busQ p q s tagP tagQ keyP keyQ htakesP htakesQ hne hready hfree hdecided hclaims hp1 hp2 hq1 hq2
    have hdue := readerDue_readTaken (p := p) hready hfree hdecided hclaims tagP keyP
    have hready' : (readTaken s p tagP keyP).device = .ready := hdue.1
    have hsecond := exec_read_taken (takes_readTaken htakesQ hne tagP keyP) hready' hq1 hq2 tagQ
    obtain ⟨hdevice, -, -, harbiter⟩ := readTaken_frame (readTaken s p tagP keyP) q tagQ keyQ
    have hdueQ : readerDue p (readTaken (readTaken s p tagP keyP) q tagQ keyQ) := by
      refine ⟨hdevice.trans hready', ?_, ?_⟩
      · rw [harbiter]; exact hdue.2.1
      · rw [harbiter]; exact grantee_claimEntered _ hdue.2.1 hdue.2.2
    obtain ⟨w, hw, hserved, -, hwclaims⟩ := exec_arrayGrant_readerDue hdueQ
    obtain ⟨x, hx, hdueX⟩ := exec_engineTakeJob_readerDue hdue
    obtain ⟨y, hy, hyserved, hyclass, hyclaims⟩ := exec_arrayGrant_readerDue hdueX
    refine ⟨_, _, w, x, y, exec_read_taken htakesP hready hp1 hp2 tagP, hsecond, hw, hserved, ?_, ?_, hx, hy, hyclass,
      hyserved, ?_⟩
    · rw [hwclaims, claimPending_markClaim_same]
    · have hother : Claimant.reader q ≠ .reader p := fun h => hne (Claimant.reader.inj h)
      rw [hwclaims, claimPending_markClaim_other _ _ hother, harbiter]
      simp
    · rw [hyclaims]
      cases p <;> rfl

/-! ### The grants of the engine and the audit (R10, R12, R17, R19) -/

theorem chooseReader_eq_none {a : Arbiter} (ha : a.claims.readerA = false) (hb : a.claims.readerB = false)
    (hc : a.claims.readerC = false) : chooseReader a = none := by
  have hpending : ∀ p, claimPending a.claims (.reader p) = false := by intro p; cases p <;> assumption
  simp [chooseReader, hpending]

/-- The engine is chosen with no reader pending, or when the last grant was not its own (Table 1-12). -/
theorem chooseClaimant_eq_engine {a : Arbiter} (hclaim : a.claims.engine = true)
    (hturn : (a.claims.readerA = false ∧ a.claims.readerB = false ∧ a.claims.readerC = false) ∨
      a.lastClass ≠ .engine) : chooseClaimant a = some .engine := by
  rcases hturn with ⟨ha, hb, hc⟩ | hclass
  · simp [chooseClaimant, hclaim, chooseReader_eq_none ha hb hc]
  · cases hr : chooseReader a <;> simp [chooseClaimant, hclaim, hr, hclass]

theorem chooseClaimant_eq_audit {a : Arbiter} (h : a.claims = ⟨false, false, false, false, true⟩) :
    chooseClaimant a = some .audit := by
  have hnone : chooseReader a = none := chooseReader_eq_none (by rw [h]) (by rw [h]) (by rw [h])
  simp only [chooseClaimant, hnone, h, if_true]

theorem chooseClaimant_eq_none {a : Arbiter} (h : a.claims = ⟨false, false, false, false, false⟩) :
    chooseClaimant a = none := by
  have hnone : chooseReader a = none := chooseReader_eq_none (by rw [h]) (by rw [h]) (by rw [h])
  simp only [chooseClaimant, hnone, h, Bool.false_eq_true, if_false]

/-- ARRAY_GRANT of the engine's prepared sequence (R10, R17). -/
theorem exec_arrayGrant_engine {s : State} {q : Sequence} (hready : s.device = .ready)
    (hfree : s.arbiter.holder = .none) (hdue : grantee s.arbiter = some .engine) (hseq : s.engine.seq = some q)
    (hword : q.word < 16384) :
    exec .arrayGrant s = .next (grantEngine q { s with arbiter := recordGrant .engine s.arbiter }) := by
  change execArrayGrant s = _
  have hin : q.word < Config.arrayWords := hword
  simp [execArrayGrant, hready, hfree, hdue, hseq, hin]

theorem targetReached_iff (q : Sequence) : targetReached q = true ↔ q.target &&& ~~~ q.margin = 0#32 := by
  simp [targetReached, pulseMask]

/-- A sequence's next pulse is due, or with PGM_EN low it ends BLOCKED (R12). -/
theorem duePulse_high {s : State} (h : s.pgmEn = true) (q : Sequence) :
    duePulse q s =
      { s with engine := { s.engine with state := .programming, seq := some { q with cut := false } } } := by
  simp [duePulse, h]

theorem duePulse_low {s : State} (h : s.pgmEn = false) (q : Sequence) : duePulse q s = endSequence q .blocked s := by
  simp [duePulse, h]

/-- Settles O53: the grant by Table 1-12 or as decided, and the opening read's three ways. -/
theorem engineAndAuditGrants : Obligations.EngineAndAuditGrants := by
  unfold Obligations.EngineAndAuditGrants
  refine ⟨?engine, fun s hready hfree hdue => ?audit, fun s hidle => ?idle, fun s => rfl⟩
  case engine =>
    rintro s q _ _ hready hfree hdue hseq hword rfl rfl
    have hgrantee : grantee s.arbiter = some .engine := by
      refine grantee_eq_some (hdue.imp_right ?_)
      rintro ⟨hd, hclaim, hturn⟩
      exact ⟨hd, chooseClaimant_eq_engine hclaim hturn⟩
    rw [exec_arrayGrant_engine hready hfree hgrantee hseq hword, grantEngine, startSequence]
    refine ⟨fun hreached => congrArg Host.Outcome.next ((if_pos ((targetReached_iff _).2 hreached)).trans rfl),
      fun hclear hen => congrArg Host.Outcome.next ((if_neg fun h => hclear ((targetReached_iff _).1 h)).trans ?_),
      fun hclear hen => congrArg Host.Outcome.next ((if_neg fun h => hclear ((targetReached_iff _).1 h)).trans ?_)⟩
    · exact (duePulse_low (by exact hen) _).trans rfl
    · exact (duePulse_high (by exact hen) _).trans rfl
  case audit =>
    have hgrantee : grantee s.arbiter = some .audit :=
      grantee_eq_some (hdue.imp_right (fun h => ⟨h.1, chooseClaimant_eq_audit h.2⟩))
    change execArrayGrant s = _
    simp [execArrayGrant, hready, hfree, hgrantee, recordGrant]
  case idle =>
    change execArrayGrant s = _
    unfold execArrayGrant
    split
    · next hdue =>
      have hgrantee : grantee s.arbiter = none := by
        rcases hidle with h | h | ⟨hd, hc⟩
        · simp [h] at hdue
        · exact absurd hdue.2 h
        · exact (grantee_of_undecided hd).trans (chooseClaimant_eq_none hc)
      simp only [hgrantee]
    · rfl

/-! ### Pulses (R11 to R13) -/

theorem wf_pulsedArray {s : State} (h : Memory.wf s.array = true) (e : PulseEffect) :
    Memory.wf (pulsedArray s e) = true := by
  unfold pulsedArray
  split
  · exact h
  · next q _ =>
    split
    · exact h
    · next hpulse => exact Memory.wf_pulseWord h (by simp only [Config.arrayWords] at hpulse; omega) _ e

theorem runningSequence_programming {s : State} {q : Sequence} (h : s.engine.state = .programming)
    (hseq : s.engine.seq = some q) : runningSequence s = some q := by
  simp [runningSequence, h, hseq]

theorem exec_pulseDone_running {s : State} {q : Sequence} (h : runningSequence s = some q) (hword : q.word < 16384)
    (e : PulseEffect) : exec (.pulseDone e) s = .next (judgePulse q { s with array := pulsedArray s e }) := by
  change execPulseDone e s = _
  have hin : q.word < Config.arrayWords := hword
  simp [execPulseDone, h, hin]

/-- Settles O54: the pulse's array, then the margin read's four ways. -/
theorem pulseJudged : Obligations.PulseJudged := by
  unfold Obligations.PulseJudged
  intro s q e hwf hstate hseq hword
  refine ⟨pulsedArray s e, pulsedTo_pulsedArray hwf (by simpa [hseq] using hword) e, wf_pulsedArray hwf e, ?_⟩
  rintro _ rfl
  have hexec := exec_pulseDone_running (runningSequence_programming hstate hseq) hword e
  rw [hexec, judgePulse]
  by_cases hreached : q.target &&& ~~~ readMargin (pulsedArray s e) q.word = 0#32
  · have hr := (targetReached_iff { q with
      pulses := q.pulses + 1, margin := readMargin (pulsedArray s e) q.word }).2 hreached
    refine ⟨fun hne => absurd hreached hne, fun _ => ?_⟩
    rw [if_pos hr, if_pos hreached]
    rfl
  · have hr : ¬ targetReached { q with
        pulses := q.pulses + 1, margin := readMargin (pulsedArray s e) q.word } = true :=
      fun h => hreached ((targetReached_iff _).1 h)
    rw [if_neg hr, if_neg hreached]
    by_cases hmax : 6 ≤ q.pulses + 1
    · refine ⟨fun _ hlt => absurd hmax (by omega), fun _ => ?_⟩
      rw [if_pos hmax, if_pos (by exact hmax)]
      rfl
    · have hmax' : ¬ Config.pulseMax ≤ q.pulses + 1 := hmax
      refine ⟨fun _ _ hen => ?_, fun hends => ?_⟩
      · rw [if_neg hmax', duePulse_high (by exact hen)]
        simp [hstate]
      · have hen : s.pgmEn = false := by
          rcases hends with h | h | h
          · exact absurd h hreached
          · exact absurd h hmax
          · exact h
        rw [if_neg hmax', if_neg hmax, duePulse_low (by exact hen)]
        rfl

/-! ### The outcome of a repair (R40, R125 to R127) -/

theorem handOver_repair {s : State} {e : RepairEntry} (h : s.engine.repair = some e) (o : SeqOutcome) :
    handOver o s = repairOutcome e o s := by
  simp only [handOver, h]

/-- The repair list's judgement, in the words of the statement (R126, R127). -/
theorem repairDone_iff (e : RepairEntry) (o : SeqOutcome) :
    repairDone e.kind o = true ↔
      (e.kind = .retire ∧ o.normal ≠ 0#32) ∨ (e.kind = .touchUp ∧ o.cls = .succeeded) := by
  cases hk : e.kind <;> simp [repairDone]

/-- Settles O59: the outcome's class, then the list's judgement. -/
theorem repairJudged : Obligations.RepairJudged := by
  unfold Obligations.RepairJudged
  intro s e o hrepair
  rw [handOver_repair hrepair]
  simp only [← repairDone_iff]
  have hhead : ∀ cls, o.cls = cls → cls ≠ .blocked →
      repairOutcome e o s =
        { s with engine := Engine.resting, repair := countHead (repairDone e.kind o) s.repair } := by
    intro cls hcls hne
    cases cls
    · simp only [repairOutcome, hcls]
    · simp only [repairOutcome, hcls]
    · exact absurd rfl hne
  by_cases hblocked : o.cls = .blocked
  · rw [if_pos hblocked]
    simp only [repairOutcome, hblocked]
    rfl
  · rw [hhead _ rfl hblocked, if_neg hblocked]
    cases repairDone e.kind o <;> simp [countHead, countRepair, Engine.resting]

/-! ### The outcome of a policy job's sequence (R109, R110) -/

theorem handOver_policy {s : State} {j : Job} {ran : Bool} (hjob : s.engine.job = some j)
    (hrepair : s.engine.repair = none) (hwork : s.engine.work = .policy ran) (o : SeqOutcome) :
    handOver o s = policyOutcome j o s := by
  simp only [handOver, hrepair, hjob, hwork]

theorem port_enterLevel_same (p : Port) (s : State) :
    (enterLevel p s).port p =
      { s.port p with
        pulseActive := false
        lineLow := if levelMode s p then workWaiting (s.port p) else (s.port p).lineLow } := by
  unfold enterLevel
  simp only [judgeLevel_eq, State.port_setPort_same, levelMode_setPort, State.setPort_setPort]
  rfl

theorem port_foldEnterLevel (r : Port) : ∀ (ps : List Port) (s : State), ps.Nodup →
    (ps.foldl (fun t p => enterLevel p t) s).port r = if r ∈ ps then (enterLevel r s).port r else s.port r
  | [], s, _ => by simp
  | p :: ps, s, h => by
    have hp := (List.nodup_cons.1 h).1
    rw [List.foldl_cons, port_foldEnterLevel r ps _ (List.nodup_cons.1 h).2]
    by_cases hr : r = p
    · subst hr; simp [hp]
    · by_cases hm : r ∈ ps
      · have hsame : (enterLevel r (enterLevel p s)).port r = (enterLevel r s).port r := by
          rw [port_enterLevel_same, port_enterLevel_same, port_enterLevel_other hr,
            levelMode_congr (sameBlocks_enterLevel p s).policy]
        simp [hm, hsame]
      · simp [hm, hr, port_enterLevel_other hr]

/-- The ports whose alert-level mark came into force change to LEVEL mode, the others stay (R102, R109). -/
theorem port_enterNewLevels (word : Nat) (old new : Word) (s : State) (p : Port) :
    (enterNewLevels word old new s).port p =
      if word = 1 ∧ new.getLsbD (portIndex p) = true ∧ old.getLsbD (portIndex p) = false then
        (enterLevel p s).port p
      else s.port p := by
  unfold enterNewLevels
  by_cases hw : word = 1
  · have hnodup : (allPorts.filter (fun p => new.getLsbD (portIndex p) && !old.getLsbD (portIndex p))).Nodup :=
      List.Nodup.filter _ (by decide)
    have hp : p ∈ allPorts := by cases p <;> decide
    rw [if_pos hw, port_foldEnterLevel p _ s hnodup]
    simp [hw, List.mem_filter, hp]
  · simp [hw]

/-- The word of the copy after it takes a new value (R109). -/
theorem copyWord_set {s : State} {word : Nat} (h : word < s.policy.length) (v : Word) (i : Nat) :
    copyWord { s with policy := s.policy.set word v } i = if i = word then v else copyWord s i := by
  unfold copyWord
  by_cases hi : i = word
  · subst hi; simp [h]
  · simp [hi, List.getD_eq_getElem?_getD, List.getElem?_set_ne (fun h => hi h.symm)]

/-- The policy unit's update of one port: the notice of a change, then the line of a new LEVEL mode (R109). -/
theorem port_policyUpdate {s : State} {word : Nat} (hword : word < s.policy.length) (j : Job) (new : Word)
    (p : Port) (changed : PortState)
    (hchanged : changed =
      (if new = copyWord s word then s.port p
      else noticed (alertLevel { s with policy := s.policy.set word new } p)
        ⟨.policyChanged, word, new, some j.port⟩ (s.port p))) :
    (policyUpdate j word new s).port p =
      if alertLevel { s with policy := s.policy.set word new } p = true ∧ alertLevel s p = false then
        { changed with pulseActive := false, lineLow := workWaiting changed }
      else changed := by
  have hposted : State.port (if new = copyWord s word then setCopyWord word new s
      else postNotice ⟨.policyChanged, word, new, some j.port⟩ (setCopyWord word new s)) p = changed := by
    rw [hchanged]
    split
    · simp
    · have hreceives : receivesNotice (setCopyWord word new s) ⟨.policyChanged, word, new, some j.port⟩ p = true := rfl
      rw [port_postNotice, if_pos hreceives, port_arriveNotice_noticed]
      congr 1
  have hpolicy : (if new = copyWord s word then setCopyWord word new s
      else postNotice ⟨.policyChanged, word, new, some j.port⟩ (setCopyWord word new s)).policy =
      s.policy.set word new := by
    split
    · rfl
    · exact (sameBlocks_postNotice _ _).policy
  have hnew : alertLevel { s with policy := s.policy.set word new } p =
      (if 1 = word then new else copyWord s 1).getLsbD (portIndex p) := by
    unfold alertLevel; rw [copyWord_set hword]
  have hentered : (word = 1 ∧ new.getLsbD (portIndex p) = true ∧ (copyWord s word).getLsbD (portIndex p) = false) ↔
      (alertLevel { s with policy := s.policy.set word new } p = true ∧ alertLevel s p = false) := by
    rw [hnew]
    by_cases hw : word = 1
    · subst hw; simp [alertLevel]
    · simp [hw, show ¬ 1 = word from fun h => hw h.symm, alertLevel]
  unfold policyUpdate
  dsimp only
  rw [port_enterNewLevels, hposted]
  by_cases hlevel : alertLevel { s with policy := s.policy.set word new } p = true ∧ alertLevel s p = false
  · rw [if_pos (hentered.2 hlevel), if_pos hlevel, port_enterLevel_same, hposted]
    have hmode := (levelMode_congr (s := { s with policy := s.policy.set word new }) hpolicy p).trans hlevel.1
    rw [if_pos hmode]
  · rw [if_neg (fun h => hlevel (hentered.1 h)), if_neg hlevel]

/-- The result code of a policy job, in the words of the statement (Table 6-5). -/
theorem policyCode_eq {k : JobKind} {word : Nat} {cells : Word} (h : policyRequest k = some (word, cells))
    (o : SeqOutcome) :
    policyCode k cells o =
      if o.cls = .blocked then .isProtected
      else if k = .close then (if o.normal = 0#32 then .programFail else .ok)
      else if cells &&& ~~~ o.normal = 0#32 then .ok else .programFail := by
  cases k
  case append | delete | countAdvance | countRaise => simp [policyRequest] at h
  case close => cases hc : o.cls <;> by_cases hz : o.normal = 0#32 <;> simp [policyCode, policyMet, hc, hz]
  case restrict | setOption => cases hc : o.cls <;> simp [policyCode, policyMet, hc]

/-- A policy job moves no counter. -/
theorem jobCounter_of_policyRequest {k : JobKind} {r : Nat × Word} (h : policyRequest k = some r) :
    jobCounter k = none := by
  cases k <;> simp_all [policyRequest, jobCounter]

/-- Settles O58: the policy unit's update port by port, then the job's end. -/
theorem policySequenceJudged : Obligations.PolicySequenceJudged := by
  unfold Obligations.PolicySequenceJudged
  intro s j ran o word cells hjob hrepair hwork hrequest hword
  have hupdate := sameBlocks_policyUpdate j word o.normal s
  have hjob' : (setWork (.policy true) (policyUpdate j word o.normal s)).engine.job = some j := by
    rw [setWork_engine, hupdate.engine]; exact hjob
  have hout : handOver o s =
      finish (policyCode j.kind cells o) false (setWork (.policy true) (policyUpdate j word o.normal s)) := by
    rw [handOver_policy hjob hrepair hwork]
    simp only [policyOutcome, hrequest]
  obtain ⟨hblocks, hports⟩ := finish_blocks hjob' (policyCode j.kind cells o) false
  have hsame : SameBlocks { s with engine := Engine.resting, policy := s.policy.set word o.normal } (handOver o s) := by
    rw [hout]
    exact ⟨hblocks.array.trans hupdate.array, hblocks.powered.trans hupdate.powered,
      hblocks.rstLow.trans hupdate.rstLow, hblocks.pgmEn.trans hupdate.pgmEn, hblocks.portCAdr.trans hupdate.portCAdr,
      hblocks.device.trans hupdate.device, hblocks.mount.trans hupdate.mount, hblocks.policy.trans hupdate.policy,
      hblocks.directory.trans hupdate.directory, hblocks.counters.trans hupdate.counters,
      hblocks.log.trans hupdate.log, hblocks.repair.trans hupdate.repair, hblocks.engine,
      hblocks.jobs.trans hupdate.jobs, hblocks.arbiter.trans hupdate.arbiter, hblocks.audit.trans hupdate.audit,
      hblocks.lastSelector.trans hupdate.lastSelector, hblocks.pending.trans hupdate.pending⟩
  refine ⟨_, rfl, PortsChanged.of_sameBlocks hsame, ?_⟩
  rintro p changed level _ rfl hchanged hlevel
  have halert : alertLevel (handOver o s) p = alertLevel { s with policy := s.policy.set word o.normal } p :=
    levelMode_congr hsame.policy p
  have hwork' : alertLevel (setWork (.policy true) (policyUpdate j word o.normal s)) p =
      alertLevel { s with policy := s.policy.set word o.normal } p := levelMode_congr hupdate.policy p
  rw [halert] at hchanged hlevel ⊢
  have hport : (setWork (.policy true) (policyUpdate j word o.normal s)).port p = level := by
    rw [hlevel, ← port_policyUpdate hword j o.normal p changed hchanged]
    simp
  have hnotices : finishNotices j (setWork (.policy true) (policyUpdate j word o.normal s)) =
      setWork (.policy true) (policyUpdate j word o.normal s) := rfl
  have hresult : jobResult (setWork (.policy true) (policyUpdate j word o.normal s)) j
      (policyCode j.kind cells o) false = ⟨policyCode j.kind cells o, j.tag, jobCommand j.kind, .job 0 0 false 1⟩ := by
    simp only [jobResult, jobCounter_of_policyRequest hrequest]
    rfl
  rw [hout, hports p, hnotices, hport, hresult, hwork', policyCode_eq hrequest]

end Sys2Proof.Machine
end

section
/-! The outcomes of the words of an APPEND or DELETE (R54 to R62): the next word, a relocation, the commit point, the
retire, and the ends. -/

namespace Sys2Proof.Machine

/-- What the engine holds when an outcome is handed to job `j`: the job with its working state and no repair. -/
structure InHand (s : State) (j : Job) (work : Work) : Prop where
  job : s.engine.job = some j
  repair : s.engine.repair = none
  work : s.engine.work = work

/-- The next sequence of the job in hand waits (R33). -/
theorem prepare_setWork_eq {s : State} {j : Job} (hjob : s.engine.job = some j) (hrepair : s.engine.repair = none)
    (work : Work) (word : Nat) (target : Word) :
    prepare word target (setWork work s) =
      { s with
        engine := ⟨.waiting, some j, none, work, some ⟨word, target, 0, 0#32, false⟩⟩
        arbiter := claimEntered .engine s.arbiter } := by
  simp only [prepare, setWork, enterClaim, hjob, hrepair]

theorem handOver_record {s : State} {j : Job} {w : RecordWork} (h : InHand s j (.record w)) (o : SeqOutcome) :
    handOver o s = recordOutcome w j o s := by
  simp only [handOver, h.repair, h.job, h.work]

/-- A record job moves no counter. -/
theorem jobCounter_of_recordFields {k : JobKind} (h : (recordFields k).isSome = true) : jobCounter k = none := by
  cases k <;> simp_all [recordFields, jobCounter]

/-- A record job's FINISHING posts no notice. -/
theorem finishNotices_record {s : State} {w : RecordWork} (h : s.engine.work = .record w) (j : Job) :
    finishNotices j s = s := by
  simp only [finishNotices, h]

theorem jobResult_record {s : State} {j : Job} {w : RecordWork} {sp : Span} (hwork : s.engine.work = .record w)
    (hspan : w.span = some sp) (hkind : (recordFields j.kind).isSome = true) (code : Code) (weak : Bool) :
    jobResult s j code weak = ⟨code, j.tag, jobCommand j.kind, .job sp.seq 0 weak w.attempts⟩ := by
  simp [jobResult, hwork, workSequence, hspan, workAttempts, jobCounter_of_recordFields hkind]

/-- A record job ends: every block but the engine stays, and its port takes the result (R37, R61). -/
theorem finish_record {s : State} {j : Job} {w : RecordWork} {sp : Span} (h : InHand s j (.record w))
    (hspan : w.span = some sp) (hkind : (recordFields j.kind).isSome = true) (code : Code) (weak : Bool) :
    SameBlocks { s with engine := Engine.resting } (finish code weak s) ∧
      Resulted s (finish code weak s) j ⟨code, j.tag, jobCommand j.kind, .job sp.seq 0 weak w.attempts⟩ := by
  obtain ⟨hblocks, hports⟩ := finish_blocks h.job code weak
  refine ⟨hblocks, fun p => ?_⟩
  rw [hports p, finishNotices_record h.work, jobResult_record h.work hspan hkind]

theorem abandon_record {s : State} {w : RecordWork} (h : s.engine.work = .record w) :
    abandon s = finish .isProtected false s := by
  simp only [abandon, h]

/-- A record job that ends short of its commit point, the append point at `point` (R59, R61, R62). -/
theorem recordJobEnded_finish {s : State} {j : Job} {w : RecordWork} {sp : Span} (h : InHand s j (.record w))
    (hspan : w.span = some sp) (hkind : (recordFields j.kind).isSome = true) (code : Code) (point : Nat) :
    RecordJobEnded s (finish code false (setAppendPoint point s)) j w sp code point := by
  have h' : InHand (setAppendPoint point s) j (.record w) := ⟨h.job, h.repair, h.work⟩
  obtain ⟨hblocks, hresult⟩ := finish_record h' hspan hkind code false
  refine ⟨PortsChanged.of_sameBlocks hblocks, fun p => ?_⟩
  have hports : (setAppendPoint point s).port p = s.port p := by cases p <;> rfl
  have hlevel : alertLevel (setAppendPoint point s) p = alertLevel s p := rfl
  rw [hresult p, hports, hlevel]

theorem setAppendPoint_self (s : State) : setAppendPoint s.log.appendPoint s = s := rfl

/-- After a failed attempt: the end, or a fresh span (R59). -/
theorem relocated_relocate {s : State} {j : Job} {w : RecordWork} {sp : Span} (h : InHand s j (.record w))
    (hspan : w.span = some sp) {key : Nat} {kind : RecordKind} {payload : List Byte}
    (hfields : recordFields j.kind = some (key, kind, payload)) (point : Nat) :
    Relocated s (relocate w j (setAppendPoint point s)) j w sp key kind payload point := by
  have hkind : (recordFields j.kind).isSome = true := by rw [hfields]; rfl
  have hended := fun code => recordJobEnded_finish h hspan hkind code point
  have h' : InHand (setAppendPoint point s) j (.record w) := ⟨h.job, h.repair, h.work⟩
  rintro _ rfl
  have hattempt : w.attempts < 3 → relocate w j (setAppendPoint point s) =
      sampled
        (fun t =>
          if spanFits t.log (payloadW payload.length) then
            allocateSpan w (buildSpan t.log key kind j.port payload) t
          else finish .noSpace false t)
        (setAppendPoint point s) := by
    intro hlt
    simp only [relocate, hlt, if_true, beginAttempt, hfields]
  have hfit : spanFits (setAppendPoint point s).log (payloadW payload.length) = true ↔
      point + (5 + (payload.length + 3) / 4) ≤ 16384 ∧ s.log.nextSeq < 4294967295 := spanFits_iff _ _
  refine ⟨fun hmax => ?_, fun hlt hen => ?_, fun hlt hen hno => ?_, fun hlt hen hpoint hseq => ?_⟩
  · rw [relocate, if_neg (by omega)]
    exact hended _
  · rw [hattempt hlt, sampled_low (by exact hen), abandon_record h'.work]
    exact hended _
  · rw [hattempt hlt, sampled_high (by exact hen), if_neg (by rw [hfit]; omega)]
    exact hended _
  · rintro pad header check words hpad hheader hwords hcheck
    rw [hattempt hlt, sampled_high (by exact hen), if_pos (hfit.2 ⟨hpoint, hseq⟩)]
    have hw : 5 + (payload.length + 3) / 4 - 5 = (payload.length + 3) / 4 := by omega
    rw [hw] at hpad hheader ⊢
    subst hpad hheader hwords hcheck
    exact prepare_setWork_eq (s := { setAppendPoint point s with
      log := ⟨point + (5 + (payload.length + 3) / 4), s.log.nextSeq + 1, s.log.stripCursor⟩ })
      h.job h.repair _ _ _

/-- The word after a verified one waits, or with PGM_EN low the job is abandoned (R54, R62). -/
theorem sampled_prepareRecordWord {s : State} {j : Job} {w : RecordWork} {sp : Span} (h : InHand s j (.record w))
    (hspan : w.span = some sp) (hkind : (recordFields j.kind).isSome = true) (next : RecordWord) :
    (s.pgmEn = true →
      sampled (prepareRecordWord w sp next) s =
        { s with
          engine := ⟨.waiting, some j, none, .record { w with next := next },
            some ⟨recordIndex sp w.previous next, recordTarget sp next, 0, 0#32, false⟩⟩
          arbiter := claimEntered .engine s.arbiter }) ∧
    (s.pgmEn = false →
      RecordJobEnded s (sampled (prepareRecordWord w sp next) s) j w sp .isProtected s.log.appendPoint) := by
  refine ⟨fun hen => ?_, fun hen => ?_⟩
  · rw [sampled_high hen]
    exact prepare_setWork_eq h.job h.repair _ _ _
  · rw [sampled_low hen, abandon_record h.work]
    exact recordJobEnded_finish h hspan hkind .isProtected s.log.appendPoint

/-- The outcome of a header, sequence, payload or check word: the following word, a relocation, or the end, with the
append point of Table 3-7 after a header (R55, R56). -/
theorem recordOutcome_body {w : RecordWork} {sp : Span} (hspan : w.span = some sp) (hcommit : w.next ≠ .commit)
    (hself : w.next ≠ .selfRetire) (hretire : w.next ≠ .retire) (j : Job) (o : SeqOutcome) (s : State) {point : Nat}
    (hpoint : point = if w.next = .header then failedHeaderPoint sp o.normal else s.log.appendPoint) :
    (o.cls = .succeeded →
      recordOutcome w j o s = sampled (prepareRecordWord w sp (followingWord sp w.next)) s) ∧
    (o.cls = .failed → recordOutcome w j o s = relocate w j (setAppendPoint point s)) ∧
    (o.cls = .blocked → recordOutcome w j o s = abandon (setAppendPoint point s)) := by
  cases hnext : w.next with
  | commit => exact absurd hnext hcommit
  | selfRetire => exact absurd hnext hself
  | retire => exact absurd hnext hretire
  | header =>
    rw [hnext, if_pos rfl] at hpoint
    subst hpoint
    exact ⟨fun h => by simp only [recordOutcome, hspan, hnext, headerOutcome, h, followingWord],
      fun h => by simp only [recordOutcome, hspan, hnext, headerOutcome, h],
      fun h => by simp only [recordOutcome, hspan, hnext, headerOutcome, h]⟩
  | sequence =>
    rw [hnext, if_neg (by simp)] at hpoint
    subst hpoint
    exact ⟨fun h => by simp only [recordOutcome, hspan, hnext, bodyOutcome, h],
      fun h => by simp only [recordOutcome, hspan, hnext, bodyOutcome, h, setAppendPoint_self],
      fun h => by simp only [recordOutcome, hspan, hnext, bodyOutcome, h, setAppendPoint_self]⟩
  | payload i =>
    rw [hnext, if_neg (by simp)] at hpoint
    subst hpoint
    exact ⟨fun h => by simp only [recordOutcome, hspan, hnext, bodyOutcome, h],
      fun h => by simp only [recordOutcome, hspan, hnext, bodyOutcome, h, setAppendPoint_self],
      fun h => by simp only [recordOutcome, hspan, hnext, bodyOutcome, h, setAppendPoint_self]⟩
  | check =>
    rw [hnext, if_neg (by simp)] at hpoint
    subst hpoint
    exact ⟨fun h => by simp only [recordOutcome, hspan, hnext, bodyOutcome, h],
      fun h => by simp only [recordOutcome, hspan, hnext, bodyOutcome, h, setAppendPoint_self],
      fun h => by simp only [recordOutcome, hspan, hnext, bodyOutcome, h, setAppendPoint_self]⟩

/-- The word after a verified header, sequence, payload or check word, with its place and target (Table 3-1, R54). -/
theorem followingWord_place (sp : Span) (previous : Option PreviousRecord) (next : RecordWord)
    {place : RecordWord × Nat × Word} :
    place = (match next with
        | .header => (.sequence, sp.location + 1, BitVec.ofNat 32 sp.seq)
        | .sequence =>
            if sp.w = 0 then (.check, sp.location + 2, sp.check)
            else (.payload 0, sp.location + 2, sp.payload.getD 0 0#32)
        | .payload i =>
            if i + 1 < sp.w then (.payload (i + 1), sp.location + 3 + i, sp.payload.getD (i + 1) 0#32)
            else (.check, sp.location + 2 + sp.w, sp.check)
        | _ => (.commit, sp.location + 3 + sp.w, BitVec.allOnes 32)) →
    next ≠ .commit → next ≠ .selfRetire → next ≠ .retire →
    (followingWord sp next, recordIndex sp previous (followingWord sp next),
      recordTarget sp (followingWord sp next)) = place := by
  rintro rfl hcommit hself hretire
  cases next with
  | commit => exact absurd rfl hcommit
  | selfRetire => exact absurd rfl hself
  | retire => exact absurd rfl hretire
  | header => rfl
  | check => rfl
  | sequence =>
    by_cases hw : sp.w = 0
    · simp [followingWord, hw, recordIndex, recordTarget, checkIndex]
    · simp [followingWord, hw, recordIndex, recordTarget]
  | payload i =>
    by_cases hw : i + 1 < sp.w
    · simp only [followingWord, hw, if_true, recordIndex, recordTarget, Prod.mk.injEq, true_and, and_true]
      omega
    · simp [followingWord, hw, recordIndex, recordTarget, checkIndex]

/-- Settles O55: the outcome's class decides between the following word, the relocation and the end. -/
theorem recordWordJudged : Obligations.RecordWordJudged := by
  unfold Obligations.RecordWordJudged
  rintro s j w sp o key kind payload point hjob hrepair hwork hspan hfields hcommit hself hretire hpoint _ rfl
  have h : InHand s j (.record w) := ⟨hjob, hrepair, hwork⟩
  have hkind : (recordFields j.kind).isSome = true := by rw [hfields]; rfl
  obtain ⟨hsucceeded, hfailed, hblocked⟩ := recordOutcome_body hspan hcommit hself hretire j o s (point := point) hpoint
  obtain ⟨hhigh, hlow⟩ := sampled_prepareRecordWord h hspan hkind (followingWord sp w.next)
  rw [handOver_record h]
  refine ⟨fun hcls hen next word target hnext => ?_, fun hcls hen => ?_, fun hcls => ?_, fun hcls => ?_⟩
  · have hplace := followingWord_place sp w.previous w.next hnext hcommit hself hretire
    obtain ⟨hword, hindex, htarget⟩ : followingWord sp w.next = next ∧
        recordIndex sp w.previous (followingWord sp w.next) = word ∧
        recordTarget sp (followingWord sp w.next) = target := by
      simpa only [Prod.mk.injEq] using hplace
    rw [hsucceeded hcls, hhigh hen, hindex, htarget, hword]
  · rw [hsucceeded hcls]
    exact hlow hen
  · rw [hfailed hcls]
    exact relocated_relocate h hspan hfields point
  · rw [hblocked hcls, abandon_record (w := w) (by exact hwork)]
    exact recordJobEnded_finish h hspan hkind .isProtected point

/-! ### The commit and what follows it (R36, R57, R58, R60) -/

/-- A key's notice goes to the other ports that subscribe the key and may read it (R146). -/
theorem receivesNotice_commit (s : State) (key : Nat) (kind : RecordKind) (j : Job) (sp : Span) (p : Port) :
    receivesNotice s (commitNotice key kind j sp) p = true ↔
      p ≠ j.port ∧ ⟨.key, key⟩ ∈ (s.port p).subs ∧ keyDenied s p key = false := by
  have hne : p ≠ j.port ↔ ¬ j.port = p := not_congr eq_comm
  cases kind <;> simpa [receivesNotice, commitNotice, hne, and_assoc] using and_left_comm

/-- The commit point port by port (R57, R146). -/
theorem port_commitPoint (s : State) (key : Nat) (kind : RecordKind) (j : Job) (sp : Span) (p : Port) :
    (commitPoint key kind j sp s).port p =
      if p ≠ j.port ∧ ⟨.key, key⟩ ∈ (s.port p).subs ∧ keyDenied s p key = false then
        noticed (alertLevel s p) (commitNotice key kind j sp) (s.port p)
      else s.port p := by
  have hport : ∀ d, State.port { s with directory := d } p = s.port p := by intro d; cases p <;> rfl
  unfold commitPoint
  rw [port_postNotice]
  simp only [receivesNotice_commit, port_arriveNotice_noticed, hport]
  rfl

/-- The commit that succeeded: the previous record noted, the commit point, the retire step (R57). -/
theorem recordOutcome_commit {w : RecordWork} {sp : Span} (hspan : w.span = some sp) (hnext : w.next = .commit)
    {j : Job} {key : Nat} {kind : RecordKind} {payload : List Byte}
    (hfields : recordFields j.kind = some (key, kind, payload)) {o : SeqOutcome} (hcls : o.cls = .succeeded)
    (s : State) :
    recordOutcome w j o s =
      retireStep { w with previous := (dirFind s.directory key).map (fun e => ⟨e.location, e.w, e.seq⟩) } sp
        (commitPoint key kind j sp s) := by
  simp only [recordOutcome, hspan, hnext, commitOutcome, hcls, hfields]

/-- A commit that did not succeed, and the self-retire (R58). -/
theorem recordOutcome_unpublished {w : RecordWork} {sp : Span} (hspan : w.span = some sp) (j : Job) (o : SeqOutcome)
    (s : State) :
    (w.next = .commit → o.cls = .failed → o.normal = BitVec.allOnes 32 →
      recordOutcome w j o s = sampled (prepareRecordWord w sp .selfRetire) s) ∧
    (w.next = .commit ∧ o.cls = .failed ∧ o.normal ≠ BitVec.allOnes 32 ∨ w.next = .selfRetire ∧ o.cls ≠ .blocked →
      recordOutcome w j o s = relocate w j s) ∧
    (w.next = .commit ∨ w.next = .selfRetire → o.cls = .blocked → recordOutcome w j o s = abandon s) := by
  refine ⟨fun hnext hcls hones => ?_, fun hcase => ?_, fun hnext hcls => ?_⟩
  · simp only [recordOutcome, hspan, hnext, commitOutcome, hcls, hones, if_true]
  · rcases hcase with ⟨hnext, hcls, hones⟩ | ⟨hnext, hcls⟩
    · simp only [recordOutcome, hspan, hnext, commitOutcome, hcls, hones, if_false]
    · cases hc : o.cls with
      | blocked => exact absurd hc hcls
      | succeeded => simp only [recordOutcome, hspan, hnext, selfRetireOutcome, hc]
      | failed => simp only [recordOutcome, hspan, hnext, selfRetireOutcome, hc]
  · rcases hnext with hnext | hnext
    · simp only [recordOutcome, hspan, hnext, commitOutcome, hcls]
    · simp only [recordOutcome, hspan, hnext, selfRetireOutcome, hcls]

/-- The retire step after the commit point: the retire waits, or the job ends OK, retire-weak exactly when there is a
previous record (R36, R60). -/
theorem retireStep_cases {s : State} {j : Job} {w : RecordWork} {sp : Span} (h : InHand s j (.record w))
    (hspan : w.span = some sp) (hkind : (recordFields j.kind).isSome = true) (previous : Option PreviousRecord) :
    (∀ q, previous = some q → s.pgmEn = true →
      retireStep { w with previous := previous } sp s =
        { s with
          engine := ⟨.waiting, some j, none, .record { w with next := .retire, previous := some q },
            some ⟨q.location + 4 + q.w, BitVec.allOnes 32, 0, 0#32, false⟩⟩
          arbiter := claimEntered .engine s.arbiter }) ∧
    (previous = none ∨ s.pgmEn = false →
      SameBlocks { s with engine := Engine.resting } (retireStep { w with previous := previous } sp s) ∧
        Resulted s (retireStep { w with previous := previous } sp s) j
          ⟨.ok, j.tag, jobCommand j.kind, .job sp.seq 0 previous.isSome w.attempts⟩) := by
  refine ⟨?_, fun hend => ?_⟩
  · rintro q rfl hen
    exact (if_pos hen).trans (prepare_setWork_eq h.job h.repair _ _ _)
  · cases previous with
    | none => exact finish_record h hspan hkind .ok false
    | some q =>
      have hen : s.pgmEn = false := hend.resolve_left (by simp)
      have h' : InHand (setWork (.record { w with previous := some q }) s) j (.record { w with previous := some q }) :=
        ⟨h.job, h.repair, rfl⟩
      obtain ⟨hblocks, hresult⟩ := finish_record h' hspan hkind .ok true
      have hlow : retireStep { w with previous := some q } sp s =
          finish .ok true (setWork (.record { w with previous := some q }) s) := if_neg (by simp [hen])
      rw [hlow]
      refine ⟨hblocks, fun p => ?_⟩
      have hport : (setWork (.record { w with previous := some q }) s).port p = s.port p := by cases p <;> rfl
      have hlevel : alertLevel (setWork (.record { w with previous := some q }) s) p = alertLevel s p := rfl
      rw [hresult p, hport, hlevel]
      rfl

theorem committedEntry_key (key : Nat) (kind : RecordKind) (j : Job) (sp : Span) :
    (committedEntry key kind j sp).key = key := rfl

/-- The commit that succeeded, published (R57, R60). -/
theorem commit_published {s : State} {j : Job} {w : RecordWork} {sp : Span} (h : InHand s j (.record w))
    (hspan : w.span = some sp) (hnext : w.next = .commit) {o : SeqOutcome} (hcls : o.cls = .succeeded) {key : Nat}
    {kind : RecordKind} {payload : List Byte} (hfields : recordFields j.kind = some (key, kind, payload)) :
    (∀ e, dirFind s.directory key = some e → s.pgmEn = true →
      handOver o s =
        { commitPoint key kind j sp s with
          engine := ⟨.waiting, some j, none,
            .record { w with next := .retire, previous := some ⟨e.location, e.w, e.seq⟩ },
            some ⟨e.location + 4 + e.w, BitVec.allOnes 32, 0, 0#32, false⟩⟩
          arbiter := claimEntered .engine s.arbiter }) ∧
    (dirFind s.directory key = none ∨ s.pgmEn = false →
      SameBlocks { commitPoint key kind j sp s with engine := Engine.resting } (handOver o s) ∧
        Resulted (commitPoint key kind j sp s) (handOver o s) j
          ⟨.ok, j.tag, jobCommand j.kind, .job sp.seq 0 (dirFind s.directory key).isSome w.attempts⟩) := by
  have hkind : (recordFields j.kind).isSome = true := by rw [hfields]; rfl
  have hcommit := sameBlocks_commitPoint key kind j sp s
  have h' : InHand (commitPoint key kind j sp s) j (.record w) :=
    ⟨(congrArg Engine.job hcommit.engine).trans h.job, (congrArg Engine.repair hcommit.engine).trans h.repair,
      (congrArg Engine.work hcommit.engine).trans h.work⟩
  have hen : (commitPoint key kind j sp s).pgmEn = s.pgmEn := hcommit.pgmEn
  obtain ⟨hwaits, hends⟩ := retireStep_cases h' hspan hkind
    ((dirFind s.directory key).map (fun e => ⟨e.location, e.w, e.seq⟩))
  rw [handOver_record h, recordOutcome_commit hspan hnext hfields hcls]
  refine ⟨fun e hfind hhigh => ?_, fun hend => ?_⟩
  · rw [hwaits ⟨e.location, e.w, e.seq⟩ (by rw [hfind]; rfl) (hen.trans hhigh), hcommit.arbiter]
  · rw [Option.isSome_map] at hends
    refine hends (hend.imp (fun hnone => ?_) (fun hlow => hen.trans hlow))
    rw [hnone]; rfl

/-- Settles O56: the commit point with its retire step; the retire's end; and what follows a commit that was not
published. -/
theorem commitPublishes : Obligations.CommitPublishes := by
  unfold Obligations.CommitPublishes
  refine ⟨?published, ?retired, ?unpublished⟩
  case published =>
    rintro s j w sp o key kind payload n hjob hrepair hwork hspan hnext hcls hfields - hn
    have h : InHand s j (.record w) := ⟨hjob, hrepair, hwork⟩
    have hcommit := sameBlocks_commitPoint key kind j sp s
    have hnotice : n = commitNotice key kind j sp := hn
    subst hnotice
    obtain ⟨hwaits, hends⟩ := commit_published h hspan hnext hcls hfields
    have hown : (commitPoint key kind j sp s).port j.port = s.port j.port := by
      rw [port_commitPoint, if_neg (by simp)]
    have hother : ∀ p, p ≠ j.port → (commitPoint key kind j sp s).port p =
        if ⟨.key, key⟩ ∈ (s.port p).subs ∧ keyDenied s p key = false then
          noticed (alertLevel s p) (commitNotice key kind j sp) (s.port p)
        else s.port p := by
      intro p hp
      rw [port_commitPoint]
      simp only [ne_eq, hp, not_false_eq_true, true_and]
    have hlevel : ∀ p, alertLevel (commitPoint key kind j sp s) p = alertLevel s p :=
      fun p => levelMode_congr hcommit.policy p
    have hfound := dirFind_dirPut_same s.directory (committedEntry key kind j sp)
    rw [committedEntry_key] at hfound
    refine ⟨_, rfl, ?_⟩
    by_cases hend : dirFind s.directory key = none ∨ s.pgmEn = false
    · obtain ⟨hblocks, hresult⟩ := hends hend
      have hdirectory : (handOver o s).directory = dirPut s.directory (committedEntry key kind j sp) :=
        hblocks.directory.trans hcommit.directory
      refine ⟨?_, ?_, fun other hne => ?_, fun p hp => ?_, fun e hfind hhigh => ?_, fun _ => ⟨hblocks.engine,
        hblocks.arbiter.trans hcommit.arbiter, ?_⟩⟩
      · rw [hdirectory, hblocks.engine, hblocks.arbiter.trans hcommit.arbiter]
        refine PortsChanged.of_sameBlocks ?_
        exact ⟨hblocks.array.trans hcommit.array, hblocks.powered.trans hcommit.powered,
          hblocks.rstLow.trans hcommit.rstLow, hblocks.pgmEn.trans hcommit.pgmEn,
          hblocks.portCAdr.trans hcommit.portCAdr, hblocks.device.trans hcommit.device,
          hblocks.mount.trans hcommit.mount, hblocks.policy.trans hcommit.policy, hdirectory,
          hblocks.counters.trans hcommit.counters, hblocks.log.trans hcommit.log, hblocks.repair.trans hcommit.repair,
          hblocks.engine, hblocks.jobs.trans hcommit.jobs, hblocks.arbiter.trans hcommit.arbiter,
          hblocks.audit.trans hcommit.audit, hblocks.lastSelector.trans hcommit.lastSelector,
          hblocks.pending.trans hcommit.pending⟩
      · rw [hdirectory]; exact hfound
      · rw [hdirectory]; exact dirFind_dirPut_other _ hne
      · rw [hresult p, if_neg hp]; exact hother p hp
      · rcases hend with hnone | hlow
        · simp [hnone] at hfind
        · simp [hlow] at hhigh
      · rw [hresult j.port, if_pos rfl, hown, hlevel]
    · have hsome : ∃ e, dirFind s.directory key = some e :=
        Option.ne_none_iff_exists'.1 (fun hnone => hend (.inl hnone))
      obtain ⟨e, hfind⟩ := hsome
      have hhigh : s.pgmEn = true := by simpa using fun hlow => hend (.inr hlow)
      have ht := hwaits e hfind hhigh
      have hport : ∀ p, (handOver o s).port p = (commitPoint key kind j sp s).port p := by
        rw [ht]; intro p; cases p <;> rfl
      have hdirectory : (handOver o s).directory = dirPut s.directory (committedEntry key kind j sp) := by
        rw [ht]; exact hcommit.directory
      refine ⟨?_, ?_, fun other hne => ?_, fun p hp => ?_, fun e' hfind' _ => ?_, fun hend' => absurd hend' hend⟩
      · rw [hdirectory]
        refine PortsChanged.of_sameBlocks ?_
        rw [ht]
        exact ⟨hcommit.array, hcommit.powered, hcommit.rstLow, hcommit.pgmEn, hcommit.portCAdr, hcommit.device,
          hcommit.mount, hcommit.policy, hcommit.directory, hcommit.counters, hcommit.log, hcommit.repair, rfl,
          hcommit.jobs, rfl, hcommit.audit, hcommit.lastSelector, hcommit.pending⟩
      · rw [hdirectory]; exact hfound
      · rw [hdirectory]; exact dirFind_dirPut_other _ hne
      · rw [hport p]; exact hother p hp
      · cases hfind.symm.trans hfind'
        exact ⟨by rw [ht], by rw [ht], (hport _).trans hown⟩
  case retired =>
    rintro s j w sp o hjob hrepair hwork hspan hnext hkind
    have h : InHand s j (.record w) := ⟨hjob, hrepair, hwork⟩
    have hout : handOver o s = finish .ok (o.normal == 0#32) s := by
      rw [handOver_record h]
      simp only [recordOutcome, hspan, hnext]
    obtain ⟨hblocks, hresult⟩ := finish_record h hspan hkind .ok (o.normal == 0#32)
    exact ⟨_, hout, PortsChanged.of_sameBlocks hblocks, hresult⟩
  case unpublished =>
    rintro s j w sp o key kind payload hjob hrepair hwork hspan hfields _ rfl
    have h : InHand s j (.record w) := ⟨hjob, hrepair, hwork⟩
    have hkind : (recordFields j.kind).isSome = true := by rw [hfields]; rfl
    obtain ⟨hself, hrelocate, hblocked⟩ := recordOutcome_unpublished hspan j o s
    obtain ⟨hhigh, hlow⟩ := sampled_prepareRecordWord h hspan hkind .selfRetire
    rw [handOver_record h]
    refine ⟨fun hnext hcls hones => ⟨fun hen => ?_, fun hen => ?_⟩, fun hcase => ?_, fun hnext hcls => ?_⟩
    · rw [hself hnext hcls hones, hhigh hen]
      rfl
    · rw [hself hnext hcls hones]
      exact hlow hen
    · rw [hrelocate hcase]
      exact relocated_relocate h hspan hfields s.log.appendPoint
    · rw [hblocked hnext hcls, abandon_record h.work]
      exact recordJobEnded_finish h hspan hkind .isProtected s.log.appendPoint

end Sys2Proof.Machine
end

section
/-! The outcomes of the words of a counter job (R86 to R94): the thermometer, the base, the claim and its void. -/

namespace Sys2Proof.Machine

/-! ### A counter job in hand -/

/-- `u` is `s` with counter job `j` in hand at work `w`, the counter's entry at `e` and the strip cursor at `cursor`. -/
structure CounterHand (s u : State) (j : Job) (w : CounterWork) (e : CounterEntry) (cursor : Nat) : Prop where
  hand : InHand u j (.counter w)
  kind : jobCounter j.kind = some w.counter
  rest : u = { s with engine := u.engine, counters := u.counters, log := { s.log with stripCursor := cursor } }
  entry : CounterSet s u w.counter e

namespace CounterHand

variable {s u : State} {j : Job} {w : CounterWork} {e : CounterEntry} {cursor : Nat}

theorem port (h : CounterHand s u j w e cursor) (p : Port) : u.port p = s.port p := by
  rw [h.rest]; cases p <;> rfl

theorem policy (h : CounterHand s u j w e cursor) : u.policy = s.policy := by rw [h.rest]

theorem pgmEn (h : CounterHand s u j w e cursor) : u.pgmEn = s.pgmEn := by rw [h.rest]

theorem cursor_eq (h : CounterHand s u j w e cursor) : u.log.stripCursor = cursor := by rw [h.rest]

/-- The work of the counter's job is set. -/
theorem setWork (h : CounterHand s u j w e cursor) {w' : CounterWork} (hcounter : w'.counter = w.counter) :
    CounterHand s (setWork (.counter w') u) j w' e cursor where
  hand := ⟨h.hand.job, h.hand.repair, rfl⟩
  kind := by rw [hcounter]; exact h.kind
  rest := by
    have hrest := h.rest
    unfold Machine.setWork
    rw [hrest]
  entry := by rw [hcounter]; exact h.entry

/-- The strip cursor is set. -/
theorem setCursor (h : CounterHand s u j w e cursor) (n : Nat) :
    CounterHand s { u with log := { u.log with stripCursor := n } } j w e n where
  hand := ⟨h.hand.job, h.hand.repair, h.hand.work⟩
  kind := h.kind
  rest := by
    have hrest := h.rest
    rw [hrest]
  entry := h.entry

/-- The counter's value differs from its value at the job's start (R93). -/
theorem moved (h : CounterHand s u j w e cursor) : counterMoved u w = true ↔ e.value ≠ w.start := by
  simp [counterMoved, h.entry.1]

/-- COUNTER_MOVED at one port (R93, R146). -/
theorem port_finishNotices (h : CounterHand s u j w e cursor) (p : Port) :
    (finishNotices j u).port p =
      if e.value ≠ w.start ∧ p ≠ j.port ∧ ⟨.counter, w.counter⟩ ∈ (s.port p).subs ∧
          counterDenied s p w.counter = false then
        noticed (alertLevel s p) ⟨.counterMoved, w.counter, BitVec.ofNat 32 e.value, some j.port⟩ (s.port p)
      else s.port p := by
  have hreceives : receivesNotice u ⟨.counterMoved, w.counter, BitVec.ofNat 32 e.value, some j.port⟩ p = true ↔
      p ≠ j.port ∧ ⟨.counter, w.counter⟩ ∈ (s.port p).subs ∧ counterDenied s p w.counter = false := by
    have hne : p ≠ j.port ↔ ¬ j.port = p := not_congr eq_comm
    simpa [receivesNotice, h.port p, counterDenied_congr h.policy, hne, and_assoc] using and_left_comm
  have hlevel : alertLevel u p = alertLevel s p := levelMode_congr h.policy p
  simp only [finishNotices, h.hand.work, h.entry.1]
  by_cases hmoved : e.value ≠ w.start
  · rw [if_pos (h.moved.2 hmoved), port_postNotice, port_arriveNotice_noticed, h.port p]
    simp only [hreceives, hmoved, hlevel, true_and, ne_eq, not_false_eq_true]
  · rw [if_neg (fun hm => hmoved (h.moved.1 hm)), if_neg (fun hm => hmoved hm.1), h.port p]

/-- The job in hand ends (R37, R93). -/
theorem finish (h : CounterHand s u j w e cursor) (code : Code) :
    CounterJobEnded s (finish code false u) j w e code cursor := by
  obtain ⟨hblocks, hports⟩ := finish_blocks h.hand.job code false
  have hresult : jobResult u j code false =
      ⟨code, j.tag, jobCommand j.kind, .job 0 e.value false w.openAttempts⟩ := by
    simp [jobResult, h.hand.work, workSequence, workAttempts, h.kind, h.entry.1]
  have hlevel : ∀ p, alertLevel u p = alertLevel s p := fun p => levelMode_congr h.policy p
  have hcounters : (Machine.finish code false u).counters = u.counters := hblocks.counters
  refine ⟨PortsChanged.of_sameBlocks ?_, ⟨?_, fun other hne => ?_⟩, fun p => ?_⟩
  · rw [hcounters]
    have hrest := h.rest
    have hu : SameBlocks { s with
        engine := u.engine, counters := u.counters, log := { s.log with stripCursor := cursor } } u := by
      rw [← hrest]; exact SameBlocks.refl u
    exact ⟨hblocks.array.trans hu.array, hblocks.powered.trans hu.powered, hblocks.rstLow.trans hu.rstLow,
      hblocks.pgmEn.trans hu.pgmEn, hblocks.portCAdr.trans hu.portCAdr, hblocks.device.trans hu.device,
      hblocks.mount.trans hu.mount, hblocks.policy.trans hu.policy, hblocks.directory.trans hu.directory,
      hcounters, hblocks.log.trans hu.log, hblocks.repair.trans hu.repair, hblocks.engine,
      hblocks.jobs.trans hu.jobs, hblocks.arbiter.trans hu.arbiter, hblocks.audit.trans hu.audit,
      hblocks.lastSelector.trans hu.lastSelector, hblocks.pending.trans hu.pending⟩
  · rw [counterEntry_congr hcounters]; exact h.entry.1
  · rw [counterEntry_congr hcounters]; exact h.entry.2 other hne
  · rw [hports p, hresult, hlevel, h.port_finishNotices p]
    by_cases hp : p = j.port
    · rw [if_pos hp, if_pos hp, if_neg (fun hm => hm.2.1 hp)]
    · rw [if_neg hp, if_neg hp]
      simp only [ne_eq, hp, not_false_eq_true, true_and]

/-- The job in hand ends short of its target, PARTIAL when the value moved (R92, Table 5-6). -/
theorem endShort (h : CounterHand s u j w e cursor) (otherwise : Code) :
    CounterJobEnded s (endShort w otherwise u) j w e (shortCode w e.value otherwise) cursor := by
  unfold Machine.endShort shortCode
  by_cases hmoved : e.value = w.start
  · rw [if_neg (fun hm => h.moved.1 hm hmoved), if_pos hmoved]; exact h.finish otherwise
  · rw [if_pos (h.moved.2 hmoved), if_neg hmoved]; exact h.finish .partialMove

/-- The job in hand is abandoned (R94). -/
theorem abandon (h : CounterHand s u j w e cursor) :
    CounterJobEnded s (abandon u) j w e (shortCode w e.value .isProtected) cursor := by
  have habandon : Machine.abandon u = Machine.endShort w .isProtected u := by
    simp only [Machine.abandon, h.hand.work, Machine.endShort]
  rw [habandon]; exact h.endShort .isProtected

/-- The job in hand prepares its next sequence (R33). -/
theorem waits (h : CounterHand s u j w e cursor) {w' : CounterWork} (hcounter : w'.counter = w.counter) (word : Nat)
    (target : Word) :
    CounterJobWaits s (prepare word target (Machine.setWork (.counter w') u)) j w' e word target cursor := by
  have hprepared := prepare_setWork_eq h.hand.job h.hand.repair (.counter w') word target
  have hrest := h.rest
  refine ⟨?_, ?_⟩
  · rw [hprepared]
    conv_lhs => rw [hrest]
  · rw [hprepared, hcounter]; exact h.entry

/-- The job in hand needs a strip (R89, R92, R94). -/
theorem beginOpen (h : CounterHand s u j w e cursor) {w' : CounterWork} (hcounter : w'.counter = w.counter) :
    StripNeeded s (beginOpen w' u) j w' e cursor := by
  have h' := h.setWork hcounter
  unfold Machine.beginOpen
  refine ⟨fun hen => ?_, fun hen hfull => ?_, fun hen hroom => ?_⟩
  · rw [sampled_low (h'.pgmEn.trans hen)]; exact h'.abandon
  · rw [sampled_high (h'.pgmEn.trans hen)]
    unfold openStrip
    rw [h'.cursor_eq]
    dsimp only
    rw [if_pos (by exact hfull)]
    exact h'.endShort .noStrip
  · rw [sampled_high (h'.pgmEn.trans hen)]
    unfold openStrip
    rw [h'.cursor_eq]
    have hnot : ¬ Config.stripCount ≤ cursor := by simpa [Config.stripCount] using hroom
    dsimp only
    rw [if_neg hnot]
    exact (h'.setCursor (cursor + 1)).waits
      (w' := { w' with openAttempts := w'.openAttempts + 1, opening := some (cursor, .base) }) rfl _ _

/-- An open attempt of the job in hand has failed (R92). -/
theorem retryOpen (h : CounterHand s u j w e cursor) : OpenFailed s (retryOpen w u) j w e cursor := by
  unfold Machine.retryOpen
  refine ⟨fun hlt => ?_, fun hge => ?_⟩
  · rw [if_pos hlt]; exact h.beginOpen rfl
  · rw [if_neg (by omega)]; exact h.endShort .programFail

end CounterHand

/-- However a job that needs a strip goes on, its counter's entry stands. -/
theorem StripNeeded.counterSet {s t : State} {j : Job} {w : CounterWork} {e : CounterEntry} {cursor : Nat}
    (h : StripNeeded s t j w e cursor) : CounterSet s t w.counter e := by
  obtain ⟨hlow, hfull, hroom⟩ := h
  cases hen : s.pgmEn with
  | false => exact (hlow hen).2.1
  | true =>
    rcases Nat.lt_or_ge cursor 512 with hlt | hge
    · exact (hroom hen hlt).2
    · exact (hfull hen hge).2.1

/-! ### The thermometer (R86, R87) -/

/-- The last of the first `n` numbers that has a property: it has it, and none above it has. -/
theorem foldl_lastOf (f : Nat → Bool) (n : Nat) :
    (∀ h, (List.range n).foldl (fun best i => if f i then some i else best) none = some h → h < n ∧ f h = true) ∧
    (∀ b < n, f b = true →
      ∃ h, (List.range n).foldl (fun best i => if f i then some i else best) none = some h ∧ b ≤ h) := by
  induction n with
  | zero => exact ⟨fun h hh => by simp at hh, fun b hb => absurd hb (Nat.not_lt_zero b)⟩
  | succ n ih =>
    obtain ⟨ihset, ihbound⟩ := ih
    simp only [List.range_succ, List.foldl_append, List.foldl_cons, List.foldl_nil]
    cases hn : f n with
    | true => exact ⟨fun h hh => by cases hh; exact ⟨Nat.lt_succ_self n, hn⟩, fun b hb _ => ⟨n, rfl, by omega⟩⟩
    | false =>
      refine ⟨fun h hh => ?_, fun b hb hset => ?_⟩
      · obtain ⟨hlt, hset⟩ := ihset h hh
        exact ⟨by omega, hset⟩
      · have hne : b ≠ n := by rintro rfl; rw [hn] at hset; cases hset
        exact ihbound b (by omega) hset

/-- The highest position seen is above every position seen before or set in the word read (R87). -/
theorem maxPosition_highestBit_le (highest : Option Nat) (v : Word) (base p : Nat)
    (h : highest = some p ∨ ∃ b < 32, v.getLsbD b = true ∧ p = base + b) :
    ∃ x, maxPosition highest ((highestBit v).map (fun b => base + b)) = some x ∧ p ≤ x := by
  rcases h with rfl | ⟨b, hb, hset, rfl⟩
  · cases highestBit v with
    | none => exact ⟨p, rfl, Nat.le_refl p⟩
    | some b => exact ⟨max p (base + b), rfl, Nat.le_max_left _ _⟩
  · obtain ⟨x, hx, hle⟩ := (foldl_lastOf (fun i => v.getLsbD i) 32).2 b hb hset
    have hx' : highestBit v = some x := hx
    rw [hx']
    cases highest with
    | none => exact ⟨base + x, rfl, by omega⟩
    | some a => exact ⟨max a (base + x), rfl, by omega⟩

/-- The highest position seen was seen before or is set in the word read (R87). -/
theorem maxPosition_highestBit_mem (highest : Option Nat) (v : Word) (base x : Nat)
    (h : maxPosition highest ((highestBit v).map (fun b => base + b)) = some x) :
    highest = some x ∨ ∃ b < 32, v.getLsbD b = true ∧ x = base + b := by
  cases hb : highestBit v with
  | none =>
    rw [hb] at h
    cases highest with
    | none => cases h
    | some a => exact .inl h
  | some b =>
    obtain ⟨hlt, hset⟩ := (foldl_lastOf (fun i => v.getLsbD i) 32).1 b hb
    rw [hb] at h
    cases highest with
    | none => cases h; exact .inr ⟨b, hlt, hset, rfl⟩
    | some a =>
      have hx : max a (base + b) = x := Option.some.inj h
      rcases Nat.le_total a (base + b) with hle | hle
      · exact .inr ⟨b, hlt, hset, by omega⟩
      · exact .inl (congrArg some (by omega))

/-- The cells of a thermometer step are fixed position by position (R86). -/
theorem eq_stepCells {w : CounterWork} {cells : Word}
    (h : ∀ i < 32, cells.getLsbD i =
      decide (w.nextPos % 32 ≤ i ∧ i < w.nextPos % 32 + min w.remaining (32 - w.nextPos % 32))) :
    cells = stepCells w :=
  BitVec.eq_of_getLsbD_eq fun i hi => (h i hi).trans (getLsbD_stepCells w hi).symm

theorem counterField_of_le {n : Nat} (h : n ≤ 16777215) : counterField n = n := if_pos h

/-- The counter's entry replaced while its job is in hand. -/
theorem counterHand_setCounter {s : State} {j : Job} {w : CounterWork} (h : InHand s j (.counter w))
    (hkind : jobCounter j.kind = some w.counter) {e e' : CounterEntry}
    (hfind : s.counters.find? (fun x => x.id == w.counter) = some e) (hid : e'.id = w.counter) {w' : CounterWork}
    (hcounter : w'.counter = w.counter) :
    CounterHand s (setWork (.counter w') (setCounter e' s)) j w' e' s.log.stripCursor where
  hand := ⟨h.job, h.repair, rfl⟩
  kind := by rw [hcounter]; exact hkind
  rest := rfl
  entry := by
    rw [hcounter]
    have hsome : (s.counters.find? (fun x => x.id == e'.id)).isSome = true := by rw [hid, hfind]; rfl
    exact ⟨hid ▸ counterEntry_setCounter_same hsome,
      fun other hne => counterEntry_setCounter_other s (by rw [hid]; exact hne)⟩

/-- The next thermometer step, the end, or a new strip (R86). -/
theorem counterStep_judged {s u : State} {j : Job} {w : CounterWork} {e : CounterEntry} {cursor : Nat}
    (h : CounterHand s u j w e cursor) :
    (w.remaining = 0 → CounterJobEnded s (counterStep w u) j w e .ok cursor) ∧
    (w.remaining ≠ 0 → w.nextPos < 192 → ∀ strip : Nat, e.strip = some strip →
      (s.pgmEn = false → CounterJobEnded s (counterStep w u) j w e (shortCode w e.value .isProtected) cursor) ∧
      (s.pgmEn = true →
        CounterJobWaits s (counterStep w u) j w e (38 + 8 * strip + 2 + w.nextPos / 32) (stepCells w) cursor)) ∧
    (w.remaining ≠ 0 → 192 ≤ w.nextPos ∨ e.strip = none → StripNeeded s (counterStep w u) j w e cursor) := by
  have h' := h.setWork (w' := w) rfl
  refine ⟨fun hzero => ?_, fun hmore hpos strip hstrip => ?_, fun hmore hopen => ?_⟩
  · rw [counterStep, if_pos hzero]; exact h'.finish .ok
  · have hnot : ¬ Config.stripPositions ≤ w.nextPos := by simpa [Config.stripPositions] using hpos
    have hentry : (counterEntry u w.counter).strip = some strip := by rw [h.entry.1]; exact hstrip
    have hstep : counterStep w u =
        sampled (prepare (thermometerWord strip w.nextPos) (stepCells w)) (setWork (.counter w) u) := by
      rw [counterStep, if_neg hmore, if_neg hnot, hentry]
    rw [hstep]
    refine ⟨fun hen => ?_, fun hen => ?_⟩
    · rw [sampled_low (h'.pgmEn.trans hen)]; exact h'.abandon
    · rw [sampled_high (h'.pgmEn.trans hen), thermometerWord_eq]; exact h.waits rfl _ _
  · have hstep : counterStep w u = beginOpen w u := by
      rw [counterStep, if_neg hmore]
      rcases hopen with hpos | hnone
      · exact if_pos hpos
      · rw [h.entry.1, hnone]; exact ite_self _
    rw [hstep]; exact h.beginOpen rfl

/-- However the job goes on, its counter's entry stands. -/
theorem counterSet_counterStep {s u : State} {j : Job} {w : CounterWork} {e : CounterEntry} {cursor : Nat}
    (h : CounterHand s u j w e cursor) : CounterSet s (counterStep w u) w.counter e := by
  obtain ⟨hdone, hmore, hopen⟩ := counterStep_judged h
  by_cases hzero : w.remaining = 0
  · exact (hdone hzero).2.1
  · cases hstrip : e.strip with
    | none => exact (hopen hzero (.inr hstrip)).counterSet
    | some strip =>
      rcases Nat.lt_or_ge w.nextPos 192 with hlt | hge
      · obtain ⟨hlow, hhigh⟩ := hmore hzero hlt strip hstrip
        cases hen : s.pgmEn with
        | false => exact (hlow hen).2.1
        | true => exact (hhigh hen).2
      · exact (hopen hzero (.inl hge)).counterSet

/-- The working state after a thermometer word, in the words of R87. -/
theorem thermometerWork_eq (e : CounterEntry) (w : CounterWork) (o : SeqOutcome) {next : Nat}
    (hnext : next = if o.cls = .failed then w.nextPos + min w.remaining (32 - w.nextPos % 32)
      else afterHighest e.highest) :
    thermometerWork e w o =
      { w with remaining := w.remaining - onesCount (o.normal &&& stepCells w), nextPos := next } := by
  subst hnext
  cases hc : o.cls <;> simp [thermometerWork, hc, stepCount]

/-! ### The obligation -/

theorem handOver_counter {s : State} {j : Job} {w : CounterWork} (h : InHand s j (.counter w)) (o : SeqOutcome) :
    handOver o s = counterOutcome w o s := by
  simp only [handOver, h.repair, h.job, h.work]

/-- Settles O57: thermometer, base, claim and void, each by what the job in hand then does. -/
theorem counterWordJudged : Obligations.CounterWordJudged := by
  unfold Obligations.CounterWordJudged
  rintro s j w e o _ hjob hrepair hwork hkind hfind rfl
  have h : InHand s j (.counter w) := ⟨hjob, hrepair, hwork⟩
  have hid : e.id = w.counter := by simpa using List.find?_some hfind
  have hentry : counterEntry s w.counter = e := by rw [counterEntry, hfind]; rfl
  have hand : CounterHand s s j w e s.log.stripCursor := ⟨h, hkind, rfl, hentry, fun _ _ => rfl⟩
  rw [handOver_counter h]
  refine ⟨?thermometer, ?base, ?claim⟩
  case thermometer =>
    rintro cells _ hopening hcells rfl hvalue
    cases eq_stepCells hcells
    have hentered := counterHand_setCounter h hkind hfind (e' := thermometerEntry e w o.normal) hid
      (w' := thermometerWork (thermometerEntry e w o.normal) w o) rfl
    have hblock : o.cls = .blocked → counterOutcome w o s =
        abandon (setWork (.counter (thermometerWork (thermometerEntry e w o.normal) w o))
          (setCounter (thermometerEntry e w o.normal) s)) := by
      intro hc
      simp only [counterOutcome, hopening, thermometerOutcome, hentry, hc]
    have hstep : o.cls ≠ .blocked → counterOutcome w o s =
        counterStep (thermometerWork (thermometerEntry e w o.normal) w o)
          (setWork (.counter (thermometerWork (thermometerEntry e w o.normal) w o))
            (setCounter (thermometerEntry e w o.normal) s)) := by
      intro hne
      simp only [counterOutcome, hopening, thermometerOutcome, hentry]
      cases hc : o.cls with
      | blocked => exact absurd hc hne
      | succeeded => rfl
      | failed => rfl
    obtain ⟨hdone, hmore, hopen⟩ := counterStep_judged hentered
    refine ⟨thermometerEntry e w o.normal, thermometerWork (thermometerEntry e w o.normal) w o, ?_,
      maxPosition_highestBit_le e.highest o.normal _, maxPosition_highestBit_mem e.highest o.normal _, ?_, ?_,
      fun hblocked => ?_, fun hcls => ?_⟩
    · simp only [thermometerEntry, counterField_of_le hvalue]
    · refine thermometerWork_eq _ w o ?_
      cases (thermometerEntry e w o.normal).highest <;> rfl
    · by_cases hblocked : o.cls = .blocked
      · rw [hblock hblocked]; exact hentered.abandon.2.1
      · rw [hstep hblocked]; exact counterSet_counterStep hentered
    · rw [hblock hblocked]; exact hentered.abandon
    · rw [hstep hcls]
      exact ⟨hdone, fun hrest hpos strip hstrip => ⟨(hmore hrest hpos strip hstrip).1, fun hen =>
        ⟨_, fun i hi => getLsbD_stepCells _ hi, (hmore hrest hpos strip hstrip).2 hen⟩⟩,
        fun hrest hpos => hopen hrest (.inl hpos)⟩
  case base =>
    rintro n cursor hopening rfl
    have hback : CounterHand s (if o.normal = 0#32 then returnCursor n s else s) j w e
        (if o.normal = 0#32 then n else s.log.stripCursor) := by
      split
      · exact hand.setCursor n
      · exact hand
    refine ⟨fun hcls hen => ?_, fun hcls hen => ?_, fun hcls => ?_, fun hcls => ?_⟩
    · simp only [counterOutcome, hopening, baseOutcome, hcls, sampled_high hen]
      have hword : stripWord n 1 = 39 + 8 * n := by unfold stripWord Config.poolStart; omega
      rw [hword]
      exact hand.waits (w' := { w with opening := some (n, .claim) }) rfl _ _
    · simp only [counterOutcome, hopening, baseOutcome, hcls, sampled_low hen]
      exact hand.abandon
    · simp only [counterOutcome, hopening, baseOutcome, hcls]
      exact hback.retryOpen
    · simp only [counterOutcome, hopening, baseOutcome, hcls]
      exact hback.abandon
  case claim =>
    rintro n stage _ hopening hstage rfl
    have hswitch : CounterJobEnded s (switchStrip w n s) j w ⟨w.counter, some n, w.target, 0, none, w.target⟩ .ok
        s.log.stripCursor :=
      (counterHand_setCounter h hkind hfind (e' := ⟨w.counter, some n, w.target, 0, none, w.target⟩) rfl
        (w' := { w with remaining := 0 }) rfl).finish .ok
    have hword : stripWord n 1 = 39 + 8 * n := by unfold stripWord Config.poolStart; omega
    have hwaits : CounterJobWaits s (prepare (stripWord n 1) (BitVec.allOnes 32)
        (setWork (.counter { w with opening := some (n, .void) }) s)) j { w with opening := some (n, .void) } e
        (39 + 8 * n) (BitVec.allOnes 32) s.log.stripCursor := by
      rw [hword]; exact hand.waits (w' := { w with opening := some (n, .void) }) rfl _ _
    cases stage with
    | base => exact absurd rfl hstage
    | claim =>
      simp only [counterOutcome, hopening]
      refine ⟨fun hcase => ?_, fun _ hcls hreads hen => ?_, fun hreads hcls => ?_, fun hreads hcls => ?_⟩
      · rcases hcase with ⟨-, hcls⟩ | ⟨hreads, hvoid | hcls | ⟨hcls, hen⟩⟩
        · simp only [claimOutcome, hcls]; exact hswitch
        · cases hvoid
        · simp only [claimOutcome, hcls, hreads, if_true]; exact hswitch
        · simp only [claimOutcome, hcls, hreads, if_true, hen, Bool.false_eq_true, if_false]; exact hswitch
      · simp only [claimOutcome, hcls, hreads, if_true, hen]; exact hwaits
      · have hfailed : o.cls = .failed := hcls.resolve_right (fun hv => by cases hv.1)
        simp only [claimOutcome, hfailed, hreads, if_false]; exact hand.retryOpen
      · simp only [claimOutcome, hcls, hreads, if_false]; exact hand.abandon
    | void =>
      simp only [counterOutcome, hopening]
      refine ⟨fun hcase => ?_, fun hclaim => (by cases hclaim), fun hreads hcls => ?_, fun hreads hcls => ?_⟩
      · have hreads : o.normal = encodeClaim w.counter := by
          rcases hcase with ⟨hclaim, -⟩ | ⟨hreads, -⟩
          · cases hclaim
          · exact hreads
        simp only [voidOutcome, hreads, if_true]; exact hswitch
      · rcases hcls with hcls | ⟨-, hcls⟩
        · simp only [voidOutcome, hreads, if_false, hcls]; exact hand.retryOpen
        · simp only [voidOutcome, hreads, if_false, hcls]; exact hand.retryOpen
      · simp only [voidOutcome, hreads, if_false, hcls]; exact hand.abandon

end Sys2Proof.Machine
end

section
/-! The audit's unit (R124, R166 to R170): the words compared, the findings and offers they make, and the walk. -/

namespace Sys2Proof.Machine

/-! ### Findings and offers (R124, R168, R169) -/

/-- What the comparisons of an audit have come to: findings, overflow, answers counted, and the repair entries. -/
structure AuditTally where
  findings : List Finding
  overflow : Nat
  added : Nat
  dropped : Nat
  entries : List RepairEntry

/-- The tally a state shows. -/
def State.tally (s : State) : AuditTally :=
  ⟨s.audit.findings, s.audit.overflow, s.audit.added, s.audit.dropped, s.repair.entries⟩

/-- `s` with the audit's walk at a position of a stage and its tally at `x`. -/
def State.walkedTo (s : State) (stage : AuditStage) (position : Nat) (x : AuditTally) : State :=
  { s with
    audit := { s.audit with
      stage := stage, position := position, findings := x.findings, overflow := x.overflow, added := x.added,
      dropped := x.dropped }
    repair := { s.repair with entries := x.entries } }

theorem State.walkedTo_tally (s : State) : s.walkedTo s.audit.stage s.audit.position s.tally = s := rfl

/-- The answers of Table 7-6. -/
theorem offerAnswer_eq (r : RepairList) (e : RepairEntry) :
    offerAnswer r e =
      (if ∃ x ∈ r.entries, x.word = e.word then .present else if 32 ≤ r.entries.length then .full else .added) := by
  unfold offerAnswer Config.repairMax
  simp only [List.any_eq_true, beq_iff_eq]

theorem offer_eq (r : RepairList) (e : RepairEntry) :
    offer r e = if offerAnswer r e = .added then { r with entries := r.entries ++ [e] } else r := by
  unfold offer
  cases offerAnswer r e <;> rfl

/-- The tally after one finding more, offered or not (R168, R169). -/
def AuditTally.afterFinding (x : AuditTally) (offers : Bool) (f : Finding) : AuditTally where
  findings := if x.findings.length < 16 then x.findings ++ [f] else x.findings
  overflow := if x.findings.length < 16 then x.overflow else x.overflow + 1
  added := x.added + (if offers = true ∧ offerAnswer ⟨x.entries, 0, 0⟩ ⟨.touchUp, f.word⟩ = .added then 1 else 0)
  dropped := x.dropped + (if offers = true ∧ offerAnswer ⟨x.entries, 0, 0⟩ ⟨.touchUp, f.word⟩ = .full then 1 else 0)
  entries := if offers = true then (offer ⟨x.entries, 0, 0⟩ ⟨.touchUp, f.word⟩).entries else x.entries

/-- One finding (R168, R169). -/
theorem makeFinding_walkedTo (s : State) (stage : AuditStage) (position : Nat) (x : AuditTally) {f : Finding}
    {offers : Bool} (hoffers : (s.audit.touchUp && mayOffer s f) = offers) :
    makeFinding (s.walkedTo stage position x) f = s.walkedTo stage position (x.afterFinding offers f) := by
  have hmay : mayOffer (s.walkedTo stage position x) f = mayOffer s f := rfl
  have htouch : (addFinding (s.walkedTo stage position x).audit f).touchUp = s.audit.touchUp := by
    unfold addFinding; split <;> rfl
  have hanswer : offerAnswer (s.walkedTo stage position x).repair ⟨.touchUp, f.word⟩ =
      offerAnswer ⟨x.entries, 0, 0⟩ ⟨.touchUp, f.word⟩ := rfl
  have hlist : x.findings.length < Config.findingsMax ↔ x.findings.length < 16 := Iff.rfl
  unfold makeFinding
  dsimp only
  rw [htouch, hmay, hoffers, offer_eq, hanswer]
  cases offers with
  | false =>
    by_cases hroom : x.findings.length < 16 <;>
      simp [State.walkedTo, AuditTally.afterFinding, addFinding, hlist, hroom]
  | true =>
    by_cases hroom : x.findings.length < 16 <;>
      cases ha : offerAnswer ⟨x.entries, 0, 0⟩ ⟨.touchUp, f.word⟩ <;>
      simp [State.walkedTo, AuditTally.afterFinding, addFinding, hlist, hroom, countAnswer, offer_eq, ha]

/-- Of the words offered so far, `fresh` were not named by the list `old`: the list now, the words added and the
words dropped (R124). -/
structure OffersMade (old now : List RepairEntry) (fresh : List Nat) (added dropped : Nat) : Prop where
  entries : now = old ++ (fresh.take (32 - old.length)).map (fun i => ⟨.touchUp, i⟩)
  takes : added = min fresh.length (32 - old.length)
  drops : dropped = fresh.length - (32 - old.length)

/-- One offer more, of a word not offered before (R124, Table 7-6). -/
theorem OffersMade.snoc {entries : List RepairEntry} {r : RepairList} {fresh : List Nat} {added dropped word : Nat}
    (h : OffersMade entries r.entries fresh added dropped) (hnew : word ∉ fresh) :
    OffersMade entries (offer r ⟨.touchUp, word⟩).entries
      (if entries.any (fun e => e.word == word) then fresh else fresh ++ [word])
      (added + (if offerAnswer r ⟨.touchUp, word⟩ = .added then 1 else 0))
      (dropped + (if offerAnswer r ⟨.touchUp, word⟩ = .full then 1 else 0)) := by
  obtain ⟨hentries, hadded, hdropped⟩ := h
  have hlen : r.entries.length = entries.length + min (32 - entries.length) fresh.length := by
    rw [hentries]; simp
  rw [offer_eq, offerAnswer_eq]
  by_cases hnamed : entries.any (fun e => e.word == word) = true
  · have hpresent : ∃ x ∈ r.entries, x.word = word := by
      obtain ⟨x, hx, hw⟩ := List.any_eq_true.1 hnamed
      exact ⟨x, by rw [hentries]; exact List.mem_append_left _ hx, by simpa using hw⟩
    rw [if_pos hpresent, if_pos hnamed]
    exact ⟨hentries, hadded, hdropped⟩
  · have habsent : ¬ ∃ x ∈ r.entries, x.word = word := by
      rintro ⟨x, hx, rfl⟩
      rw [hentries] at hx
      rcases List.mem_append.1 hx with hold | hmade
      · exact hnamed (List.any_eq_true.2 ⟨x, hold, by simp⟩)
      · obtain ⟨i, hi, rfl⟩ := List.mem_map.1 hmade
        exact hnew (List.mem_of_mem_take hi)
    rw [if_neg habsent, if_neg hnamed]
    by_cases hfull : 32 ≤ r.entries.length
    · rw [if_pos hfull]
      refine ⟨?_, ?_, ?_⟩
      · rw [List.take_append_of_le_length (by omega)]
        exact hentries
      · simp only [List.length_append, List.length_singleton, reduceCtorEq, if_false]; omega
      · simp only [List.length_append, List.length_singleton, if_true]; omega
    · rw [if_neg hfull]
      refine ⟨?_, ?_, ?_⟩
      · rw [List.take_of_length_le (by simp; omega)]
        rw [List.take_of_length_le (by omega)] at hentries
        simp [hentries]
      · simp only [List.length_append, List.length_singleton, if_true]; omega
      · simp only [List.length_append, List.length_singleton, reduceCtorEq, if_false]; omega

/-- The tally `y` comes of `x` by making `found`, and by offering its words when `offers` (R168, R169). -/
structure Tallied (x y : AuditTally) (offers : Bool) (found : List Finding) : Prop where
  findings : y.findings = (x.findings ++ found).take 16
  overflow : y.overflow = x.overflow + (x.findings.length + found.length - 16)
  offered : ∃ added dropped, y.added = x.added + added ∧ y.dropped = x.dropped + dropped ∧
    OffersMade x.entries y.entries
      (if offers = true then (found.map (fun f => f.word)).filter (fun i => !x.entries.any (fun e => e.word == i))
        else []) added dropped

theorem Tallied.none {x : AuditTally} (h : x.findings.length ≤ 16) (offers : Bool) : Tallied x x offers [] where
  findings := by rw [List.append_nil, List.take_of_length_le h]
  overflow := by simp only [List.length_nil]; omega
  offered := ⟨0, 0, rfl, rfl, by cases offers <;> simp, by cases offers <;> simp, by cases offers <;> simp⟩

/-- A finding more, of a word not found before. -/
theorem Tallied.snoc {x y : AuditTally} {offers : Bool} {found : List Finding} (h : Tallied x y offers found)
    {f : Finding} (hnew : f.word ∉ found.map (fun x => x.word)) :
    Tallied x (y.afterFinding offers f) offers (found ++ [f]) := by
  obtain ⟨hfindings, hoverflow, added, dropped, hadded, hdropped, hmade⟩ := h
  have hlen : y.findings.length = min 16 (x.findings.length + found.length) := by
    rw [hfindings, List.length_take, List.length_append]
  refine ⟨?_, ?_, ?_⟩
  · unfold AuditTally.afterFinding
    dsimp only
    rw [← List.append_assoc]
    by_cases hroom : x.findings.length + found.length < 16
    · rw [if_pos (by omega), List.take_of_length_le (by simp; omega), hfindings,
        List.take_of_length_le (by simp; omega)]
    · rw [if_neg (by omega), hfindings,
        List.take_append_of_le_length (l₁ := x.findings ++ found) (by simp; omega)]
  · unfold AuditTally.afterFinding
    simp only [List.length_append, List.length_singleton]
    split <;> omega
  · unfold AuditTally.afterFinding
    cases offers with
    | false => exact ⟨added, dropped, by simp [hadded], by simp [hdropped], by simpa using hmade⟩
    | true =>
      rw [if_pos rfl] at hmade
      have hstep := OffersMade.snoc (r := ⟨y.entries, 0, 0⟩) (word := f.word) hmade
        (fun hm => hnew (List.mem_of_mem_filter hm))
      refine ⟨added + (if offerAnswer ⟨y.entries, 0, 0⟩ ⟨.touchUp, f.word⟩ = .added then 1 else 0),
        dropped + (if offerAnswer ⟨y.entries, 0, 0⟩ ⟨.touchUp, f.word⟩ = .full then 1 else 0), ?_, ?_, ?_⟩
      · simp only [true_and, hadded, Nat.add_assoc]
      · simp only [true_and, hdropped, Nat.add_assoc]
      · simp only [if_true, List.map_append, List.filter_append]
        cases hnamed : x.entries.any (fun e => e.word == f.word) <;> simpa [hnamed] using hstep

/-- A unit compared: the words whose two values differ are found in order (R168, R169). -/
theorem foldl_makeFinding {s : State} {offers : Bool} (hlen : s.audit.findings.length ≤ 16) (region : Region)
    (id : Nat) (hoffers : ∀ i, (s.audit.touchUp && mayOffer s ⟨i, region, id⟩) = offers) (words : List Nat)
    (hwords : words.Nodup) :
    ∃ y, words.foldl (fun t i => makeFinding t ⟨i, region, id⟩) s = s.walkedTo s.audit.stage s.audit.position y ∧
      Tallied s.tally y offers (words.map (fun i => ⟨i, region, id⟩)) := by
  induction words using List.reverseRecOn with
  | nil => exact ⟨s.tally, rfl, Tallied.none hlen offers⟩
  | append_singleton words i ih =>
    obtain ⟨hfront, -, hdisjoint⟩ := List.nodup_append.1 hwords
    obtain ⟨y, hy, htallied⟩ := ih hfront
    refine ⟨y.afterFinding offers ⟨i, region, id⟩, ?_, ?_⟩
    · rw [List.foldl_append, hy]
      exact makeFinding_walkedTo s _ _ y (hoffers i)
    · rw [List.map_append]
      refine htallied.snoc ?_
      rw [List.map_map]
      intro hm
      have hi : i ∈ words := by simpa using hm
      exact hdisjoint i hi i (by simp) rfl

theorem nodup_weakWords (m : Memory) (first count : Nat) : (weakWords m first count).Nodup :=
  List.Nodup.filter _ (List.Nodup.map (fun _ _ h => Nat.add_left_cancel h) List.nodup_range)

/-- A unit compared (R168, R169). -/
theorem compareUnit_walkedTo {s : State} {offers : Bool} (hlen : s.audit.findings.length ≤ 16) (first count : Nat)
    (region : Region) (id : Nat) (hoffers : ∀ i, (s.audit.touchUp && mayOffer s ⟨i, region, id⟩) = offers) :
    ∃ y, compareUnit first count region id s = s.walkedTo s.audit.stage s.audit.position y ∧
      Tallied s.tally y offers ((weakWords s.array first count).map (fun i => ⟨i, region, id⟩)) :=
  foldl_makeFinding hlen region id hoffers _ (nodup_weakWords _ _ _)

/-! ### The walk goes on (R167, R170) -/

/-- The audit's claim entered by the holder, and the array released. -/
theorem release_claimEntered_audit {a : Arbiter} (h : a.holder = .audit) :
    { claimEntered .audit a with holder := .none } =
      { a with holder := Holder.none, claims := markClaim a.claims .audit true } := by
  have hdecided : (claimEntered .audit a).decided = a.decided := by
    rw [claimEntered_decided, h]; simp
  have hclaimed : claimEntered .audit a =
      { a with claims := markClaim a.claims .audit true, decided := (claimEntered .audit a).decided } := rfl
  rw [hclaimed, hdecided]

/-- The audit claims the unit at its position (R167). -/
theorem wentOn_claimed {s : State} (hrun : s.audit.running = true) (hheld : s.arbiter.holder = .audit)
    {stage : AuditStage} {position : Nat} (x : AuditTally)
    (hmore : match (generalizing := false) stage with
      | .records => position < s.audit.capturedAppend.getD 0
      | .strips => position < s.audit.capturedCursor.getD 0) :
    AuditWentOn s (releaseArray (enterClaim .audit (s.walkedTo stage position x))) stage position := by
  have harbiter := release_claimEntered_audit hheld
  have hruns : (releaseArray (enterClaim .audit (s.walkedTo stage position x))).audit.running = true := hrun
  refine ⟨rfl, rfl, rfl, rfl, fun hrecords _ => ⟨hrun, hrecords, rfl⟩, fun hstrips => ?_, ?_, fun _ p => ?_,
    fun hidle => by rw [hruns] at hidle; cases hidle⟩
  · cases stage with
    | records =>
      rcases hstrips with hs | hpast
      · cases hs
      · exact absurd hmore (Nat.not_lt.2 hpast)
    | strips => exact ⟨rfl, rfl, fun _ => hmore, fun _ => hrun⟩
  · rw [if_pos hruns]; exact harbiter
  · cases p <;> rfl

theorem releaseArray_port (s : State) (p : Port) : (releaseArray s).port p = s.port p := by cases p <;> rfl

/-- The end of an audit, port by port (R170). -/
theorem port_completeAudit {s : State} {port : Port} {tag : Byte} (h : s.audit.requester = some (port, tag))
    (p : Port) :
    (completeAudit s).port p =
      if p = port then
        jobEnded (alertLevel s p) s.audit.orphan
          ⟨.ok, tag, .audit,
            .audit (s.audit.findings.length + s.audit.overflow) s.audit.added s.audit.dropped⟩ (s.port p)
      else s.port p := by
  simp only [completeAudit, h]
  by_cases hp : p = port
  · subst hp
    rw [if_pos rfl, port_deliverResult_jobEnded]
    cases p <;> rfl
  · rw [if_neg hp, port_deliverResult_other hp]
    cases p <;> rfl

/-- The audit completes at the captured cursor (R170). -/
theorem wentOn_completed {s : State} {position : Nat} (x : AuditTally)
    (hend : s.audit.capturedCursor.getD 0 ≤ position) :
    AuditWentOn s (releaseArray (completeAudit (s.walkedTo .strips position x))) .strips position ∧
      (releaseArray (completeAudit (s.walkedTo .strips position x))).tally = x := by
  have hsame : SameBlocks
      { s.walkedTo .strips position x with
        audit := { (s.walkedTo .strips position x).audit with running := false } }
      (completeAudit (s.walkedTo .strips position x)) := by
    unfold completeAudit
    dsimp only
    split
    · exact SameBlocks.refl _
    · exact sameBlocks_deliverResult _ _ _ _
  have hscanner : (releaseArray (completeAudit (s.walkedTo .strips position x))).audit =
      { (s.walkedTo .strips position x).audit with running := false } := hsame.audit
  have hrepair : (releaseArray (completeAudit (s.walkedTo .strips position x))).repair =
      { s.repair with entries := x.entries } := hsame.repair
  have harbiter : (releaseArray (completeAudit (s.walkedTo .strips position x))).arbiter =
      { s.arbiter with holder := .none } := by
    rw [releaseArray_arbiter, hsame.arbiter]; rfl
  refine ⟨⟨PortsChanged.of_sameBlocks ⟨hsame.array, hsame.powered, hsame.rstLow, hsame.pgmEn, hsame.portCAdr,
    hsame.device, hsame.mount, hsame.policy, hsame.directory, hsame.counters, hsame.log, rfl, hsame.engine, hsame.jobs,
    rfl, rfl, hsame.lastSelector, hsame.pending⟩, ?_, ?_, ?_, fun hs => absurd hs (by decide), fun _ => ?_, ?_, fun hruns => ?_,
    fun _ port tag hrequester p => ?_⟩, ?_⟩
  · rw [hrepair]
  · rw [hrepair]
  · rw [hscanner]; rfl
  · rw [hscanner]
    exact ⟨rfl, rfl, ⟨fun h => Bool.noConfusion h, fun h => absurd h (Nat.not_lt.2 hend)⟩⟩
  · rw [harbiter, hscanner]; rfl
  · rw [hscanner] at hruns; cases hruns
  · rw [hscanner]
    rw [releaseArray_port, port_completeAudit (by exact hrequester)]
    cases p <;> rfl
  · unfold State.tally
    rw [hscanner, hrepair]
    rfl

/-- The walk at a strip: the next claim, or the end at the captured cursor (R167, R170). -/
theorem wentOn_nextStrip {s : State} (hrun : s.audit.running = true) (hheld : s.arbiter.holder = .audit)
    (position : Nat) (x : AuditTally) :
    AuditWentOn s (releaseArray (nextStrip (s.walkedTo .strips position x))) .strips position ∧
      (releaseArray (nextStrip (s.walkedTo .strips position x))).tally = x := by
  have hnext : nextStrip (s.walkedTo .strips position x) =
      if s.audit.capturedCursor.getD 0 ≤ position then completeAudit (s.walkedTo .strips position x)
      else enterClaim .audit (s.walkedTo .strips position x) := rfl
  rw [hnext]
  by_cases hend : s.audit.capturedCursor.getD 0 ≤ position
  · rw [if_pos hend]
    exact wentOn_completed x hend
  · rw [if_neg hend]
    exact ⟨wentOn_claimed hrun hheld x (Nat.not_le.1 hend), rfl⟩

/-- The walk from a position of a stage (R167). -/
theorem wentOn_continueAudit {s : State} (hrun : s.audit.running = true) (hheld : s.arbiter.holder = .audit)
    (stage : AuditStage) (position : Nat) (x : AuditTally) :
    AuditWentOn s (releaseArray (continueAudit (s.walkedTo stage position x))) stage position ∧
      (releaseArray (continueAudit (s.walkedTo stage position x))).tally = x := by
  cases stage with
  | strips => exact wentOn_nextStrip hrun hheld position x
  | records =>
    have hcontinue : continueAudit (s.walkedTo .records position x) =
        if s.audit.capturedAppend.getD 0 ≤ position then startStrips (s.walkedTo .records position x)
        else enterClaim .audit (s.walkedTo .records position x) := rfl
    rw [hcontinue]
    by_cases hend : s.audit.capturedAppend.getD 0 ≤ position
    · rw [if_pos hend]
      obtain ⟨⟨hports, hdone, hfailed, haudit, -, hstrips, harbiter, hkept, hcompleted⟩, htally⟩ :=
        wentOn_nextStrip hrun hheld 0 x
      refine ⟨⟨hports, hdone, hfailed, haudit, fun _ hlt => absurd hlt (Nat.not_lt.2 hend), fun _ => ?_, harbiter,
        hkept, hcompleted⟩, htally⟩
      exact hstrips (.inl rfl)
    · rw [if_neg hend]
      exact ⟨wentOn_claimed hrun hheld x (Nat.not_le.1 hend), rfl⟩

/-! ### The unit ends -/

/-- The findings and offers of a state, from its tally. -/
theorem Tallied.made {s t : State} {y : AuditTally} {offers : Bool} {found : List Finding}
    (h : Tallied s.tally y offers found) (ht : t.tally = y) :
    FindingsMade s t found ∧ TouchUpsOffered s t offers (found.map (fun x => x.word)) := by
  subst ht
  obtain ⟨hfindings, hoverflow, added, dropped, hadded, hdropped, hentries, rfl, rfl⟩ := h
  exact ⟨⟨hfindings, hoverflow⟩, by rintro _ rfl; exact ⟨hentries, hadded, hdropped⟩⟩

theorem exec_auditUnitEnd_held {s : State} (hheld : s.arbiter.holder = .audit)
    (hexists : auditUnitExists s.audit = true) : exec .auditUnitEnd s = .next (endAuditUnit s) := by
  change execAuditUnitEnd s = _
  simp [execAuditUnitEnd, hheld, hexists]

/-- A record unit at a BLANK header or past the captured append point (R167). -/
theorem endRecordUnit_past {s : State} {h : Nat}
    (hpast : readNormal s.array h = 0#32 ∨ s.audit.capturedAppend.getD 0 < h + recordLength s.array h) :
    endRecordUnit h s = nextStrip (s.walkedTo .strips 0 s.tally) := if_pos hpast

/-- A record unit within the captured append point, compared to `y` (R167). -/
theorem endRecordUnit_within {s : State} {h : Nat} {y : AuditTally}
    (hword : readNormal s.array h ≠ 0#32) (hin : h + recordLength s.array h ≤ s.audit.capturedAppend.getD 0)
    {position : Nat} (hcompare : compareRecord h s = s.walkedTo .records position y) :
    endRecordUnit h s = continueAudit (s.walkedTo .records (h + recordLength s.array h) y) := by
  have hnot : ¬ (readNormal s.array h = 0#32 ∨ s.audit.capturedAppend.getD 0 < h + recordLength s.array h) := by
    rintro (hz | hlt)
    · exact hword hz
    · omega
  unfold endRecordUnit
  rw [if_neg hnot, hcompare]
  rfl

/-- Settles O60: the unit compared, then the walk by stage and position. -/
theorem auditUnitExamined : Obligations.AuditUnitExamined := by
  unfold Obligations.AuditUnitExamined
  refine ⟨?unit, fun c => by cases c <;> simp [competes], fun r e => ⟨offerAnswer_eq r e, offer_eq r e⟩⟩
  case unit =>
    rintro s position hheld hrun hlen rfl
    have hexec : auditUnitExists s.audit = true → exec .auditUnitEnd s = .next (endAuditUnit s) :=
      exec_auditUnitEnd_held hheld
    have hnothing : Tallied s.tally s.tally false [] := Tallied.none hlen false
    refine ⟨fun found hstage hposition hfound => ?strip, fun hstage hposition => ⟨fun len hlength => ⟨fun hpast => ?past,
      fun hword hin hcompetes => ?other⟩, fun hdr found hspan hcompetes hin hfound => ?record⟩⟩
    case strip =>
      have hlast : stripWord s.audit.position 7 < 16384 := by unfold stripWord Config.poolStart; omega
      rw [hexec (by simpa [auditUnitExists, hstage] using hlast)]
      have hcompared : ∃ y, endAuditUnit s =
            releaseArray (continueAudit (s.walkedTo .strips (s.audit.position + 1) y)) ∧
          Tallied s.tally y s.audit.touchUp found := by
        have hwalked : ∀ n y, s.walkedTo .strips n y = s.walkedTo s.audit.stage n y := by
          intro n y; rw [hstage]
        simp only [endAuditUnit, hstage, endStripUnit]
        cases hc : classifyStrip s.array s.audit.position with
        | claimed counter base =>
          rw [hc] at hfound
          obtain ⟨y, hy, htallied⟩ := compareUnit_walkedTo hlen (stripWord s.audit.position 0) 8 .strip counter
            (offers := s.audit.touchUp) (fun i => Bool.and_true _)
          refine ⟨y, ?_, hfound ▸ htallied⟩
          dsimp only
          rw [hy, hwalked]
          rfl
        | free =>
          rw [hc] at hfound
          exact ⟨s.tally, by rw [hwalked]; rfl, hfound ▸ Tallied.none hlen _⟩
        | dead =>
          rw [hc] at hfound
          exact ⟨s.tally, by rw [hwalked]; rfl, hfound ▸ Tallied.none hlen _⟩
      obtain ⟨y, hend, htallied⟩ := hcompared
      obtain ⟨hwent, htally⟩ := wentOn_continueAudit hrun hheld .strips (s.audit.position + 1) y
      rw [hend]
      exact ⟨_, rfl, hwent, htallied.made htally⟩
    case past =>
      rw [hexec (by simpa [auditUnitExists, hstage] using hposition)]
      have hlength' : recordLength s.array s.audit.position = len := hlength.symm
      have hend : endAuditUnit s = releaseArray (nextStrip (s.walkedTo .strips 0 s.tally)) := by
        simp only [endAuditUnit, hstage]
        rw [endRecordUnit_past]
        rw [hlength']
        exact hpast
      obtain ⟨hwent, htally⟩ := wentOn_nextStrip hrun hheld 0 s.tally
      rw [hend]
      exact ⟨_, rfl, hwent, hnothing.made htally⟩
    case other =>
      rw [hexec (by simpa [auditUnitExists, hstage] using hposition)]
      have hcompare : compareRecord s.audit.position s = s.walkedTo .records s.audit.position s.tally := by
        rw [← hstage, State.walkedTo_tally, compareRecord, hcompetes]
        cases spanHeader s.array s.audit.position <;> rfl
      have hlength' : recordLength s.array s.audit.position = len := hlength.symm
      have hend : endAuditUnit s =
          releaseArray (continueAudit (s.walkedTo .records (s.audit.position + len) s.tally)) := by
        simp only [endAuditUnit, hstage]
        rw [endRecordUnit_within hword (by rw [hlength']; exact hin) hcompare, hlength']
      obtain ⟨hwent, htally⟩ := wentOn_continueAudit hrun hheld .records (s.audit.position + len) s.tally
      rw [hend]
      exact ⟨_, rfl, hwent, hnothing.made htally⟩
    case record =>
      rw [hexec (by simpa [auditUnitExists, hstage] using hposition)]
      have hword : readNormal s.array s.audit.position ≠ 0#32 := by
        intro hz
        rw [classifyRecord, if_pos hz] at hcompetes
        cases hcompetes
      obtain ⟨y, hy, htallied⟩ := compareUnit_walkedTo hlen s.audit.position (4 + hdr.w) .record hdr.key
        (offers := s.audit.touchUp && (dirFind s.directory hdr.key).isSome) (fun i => rfl)
      have hcompare : compareRecord s.audit.position s = s.walkedTo .records s.audit.position y := by
        have hcount : spanLength hdr.w - 1 = 4 + hdr.w := by unfold spanLength; omega
        rw [compareRecord, hspan]
        dsimp only
        rw [if_pos hcompetes, hcount, hy, hstage]
      have hlength : recordLength s.array s.audit.position = 5 + hdr.w := by rw [recordLength, hspan]; rfl
      have hend : endAuditUnit s =
          releaseArray (continueAudit (s.walkedTo .records (s.audit.position + (5 + hdr.w)) y)) := by
        simp only [endAuditUnit, hstage]
        rw [endRecordUnit_within hword (by rw [hlength]; omega) hcompare, hlength]
      obtain ⟨hwent, htally⟩ := wentOn_continueAudit hrun hheld .records (s.audit.position + (5 + hdr.w)) y
      rw [hend]
      exact ⟨_, rfl, hwent, (hfound ▸ htallied).made htally⟩

end Sys2Proof.Machine
end

section
/-! The mount's offers, and the STRIPS and SORT phases (R66, R80 to R82, R115, R116, R121, R124). -/

namespace Sys2Proof.Machine

theorem mountDue_eq_true {s : State} {ph : MountPhase} (hdevice : s.device = .mounting) (hpower : s.powered = true)
    (hrst : s.rstLow = false) (hphase : s.mount.phase = ph) : mountDue s ph = true := by
  simp [mountDue, hdevice, hpower, hrst, hphase]

/-! ### The mount's offers (R104, R115, R120, R124) -/

/-- Offers withheld under the auto-repair-off mark (R104). -/
theorem mountOffers_withheld (es : List RepairEntry) {s : State} (hoff : autoRepairOff s = true) :
    mountOffers es s = { s with
      mount := { s.mount with
        report := { s.mount.report with withheld := s.mount.report.withheld + es.length } } } := by
  induction es generalizing s with
  | nil => rfl
  | cons e es ih =>
    have hstep : mountOffer s e = { s with
        mount := { s.mount with report := { s.mount.report with withheld := s.mount.report.withheld + 1 } } } := by
      simp only [mountOffer, hoff, if_true]
    have hoff' : autoRepairOff (mountOffer s e) = true := by rw [hstep]; exact hoff
    rw [mountOffers, List.foldl_cons, ← mountOffers, ih hoff', hstep]
    simp only [List.length_cons, State.mk.injEq, MountScanner.mk.injEq, MountReport.mk.injEq, true_and, and_true]
    omega

/-- Offers of distinct words that the repair list does not name: the first that fit are ADDED, the others dropped
(R124). -/
theorem mountOffers_offered (es : List RepairEntry) {s : State} (hon : autoRepairOff s = false)
    (hlen : s.repair.entries.length ≤ 32) (hfresh : ∀ e ∈ es, ∀ x ∈ s.repair.entries, x.word ≠ e.word)
    (hdistinct : es.Pairwise (fun x y => x.word ≠ y.word)) :
    mountOffers es s = { s with
      repair := { s.repair with entries := (s.repair.entries ++ es).take 32 }
      mount := { s.mount with
        report := { s.mount.report with
          dropped := s.mount.report.dropped + (s.repair.entries.length + es.length - 32) } } } := by
  induction es generalizing s with
  | nil =>
    have hdropped : s.mount.report.dropped + (s.repair.entries.length + 0 - 32) = s.mount.report.dropped := by omega
    rw [List.append_nil, List.take_of_length_le hlen, List.length_nil, hdropped]
    rfl
  | cons e es ih =>
    obtain ⟨hhead, htail⟩ := List.pairwise_cons.1 hdistinct
    have habsent : ¬ ∃ x ∈ s.repair.entries, x.word = e.word := by
      rintro ⟨x, hx, hw⟩
      exact hfresh e (List.mem_cons_self ..) x hx hw
    rw [mountOffers, List.foldl_cons, ← mountOffers]
    by_cases hfull : 32 ≤ s.repair.entries.length
    · have hstep : mountOffer s e = { s with
          mount := { s.mount with report := { s.mount.report with dropped := s.mount.report.dropped + 1 } } } := by
        simp only [mountOffer, hon, Bool.false_eq_true, if_false, offer_eq, offerAnswer_eq, habsent, hfull, if_true,
          reduceCtorEq]
      rw [ih (s := mountOffer s e) (by rw [hstep]; exact hon) (by rw [hstep]; exact hlen)
        (by rw [hstep]; exact fun x hx => hfresh x (List.mem_cons_of_mem _ hx)) htail, hstep]
      simp only [List.length_cons, List.take_append_of_le_length hfull, State.mk.injEq, MountScanner.mk.injEq,
        MountReport.mk.injEq, true_and, and_true]
      omega
    · have hstep : mountOffer s e = { s with
          repair := { s.repair with entries := s.repair.entries ++ [e] } } := by
        simp only [mountOffer, hon, Bool.false_eq_true, if_false, offer_eq, offerAnswer_eq, habsent, hfull, if_true,
          reduceCtorEq]
      have hfresh' : ∀ x ∈ es, ∀ y ∈ s.repair.entries ++ [e], y.word ≠ x.word := by
        intro x hx y hy
        rcases List.mem_append.1 hy with hold | hnew
        · exact hfresh x (List.mem_cons_of_mem _ hx) y hold
        · cases List.mem_singleton.1 hnew
          exact hhead x hx
      rw [ih (s := mountOffer s e) (by rw [hstep]; exact hon) (by rw [hstep]; simp; omega)
        (by rw [hstep]; exact hfresh') htail, hstep]
      simp only [List.length_cons, List.length_append, List.length_nil, List.append_assoc, List.singleton_append,
        State.mk.injEq, MountScanner.mk.injEq, MountReport.mk.injEq, true_and, and_true]
      omega

theorem mountOffers_exists (es : List RepairEntry) (s : State) :
    ∃ repair dropped withheld, mountOffers es s = { s with
      repair := repair
      mount := { s.mount with report := { s.mount.report with dropped := dropped, withheld := withheld } } } := by
  induction es generalizing s with
  | nil => exact ⟨_, _, _, rfl⟩
  | cons e es ih =>
    have hstep : ∃ repair dropped withheld, mountOffer s e = { s with
        repair := repair
        mount := { s.mount with report := { s.mount.report with dropped := dropped, withheld := withheld } } } := by
      unfold mountOffer
      dsimp only
      split <;> exact ⟨_, _, _, rfl⟩
    obtain ⟨repair, dropped, withheld, hstep⟩ := hstep
    obtain ⟨repair', dropped', withheld', htail⟩ := ih (mountOffer s e)
    refine ⟨repair', dropped', withheld', htail.trans ?_⟩
    rw [hstep]

/-- The mount's offers change the repair list and two counts of the report. -/
theorem mountOffers_frame (es : List RepairEntry) (s : State) :
    mountOffers es s = { s with
      repair := (mountOffers es s).repair
      mount := { s.mount with
        report := { s.mount.report with
          dropped := (mountOffers es s).mount.report.dropped
          withheld := (mountOffers es s).mount.report.withheld } } } := by
  obtain ⟨repair, dropped, withheld, h⟩ := mountOffers_exists es s
  rw [h]

/-! ### STRIPS (R80 to R82, R116) -/

/-- The cursor over the first `n` strips: one more than the highest that is not FREE (R81). -/
theorem foldl_mountCursor (m : Memory) (n : Nat) :
    (∀ i < n, (List.range n).foldl (fun cursor s => if stripBlank m s then cursor else s + 1) 0 ≤ i →
      stripBlank m i = true) ∧
    (∀ i, (List.range n).foldl (fun cursor s => if stripBlank m s then cursor else s + 1) 0 = i + 1 →
      i < n ∧ stripBlank m i = false) := by
  induction n with
  | zero => exact ⟨fun i hi => absurd hi (Nat.not_lt_zero i), fun i hi => absurd hi (by simp)⟩
  | succ n ih =>
    obtain ⟨hfree, hlast⟩ := ih
    simp only [List.range_succ, List.foldl_append, List.foldl_cons, List.foldl_nil]
    cases hn : stripBlank m n with
    | true =>
      rw [if_pos rfl]
      refine ⟨fun i hi hle => ?_, fun i hi => ?_⟩
      · rcases Nat.lt_succ_iff_lt_or_eq.1 hi with hlt | rfl
        · exact hfree i hlt hle
        · exact hn
      · obtain ⟨hlt, hblank⟩ := hlast i hi
        exact ⟨by omega, hblank⟩
    | false =>
      rw [if_neg (by simp)]
      refine ⟨fun i hi hle => by omega, fun i hi => ?_⟩
      have hin : i = n := by omega
      subst hin
      exact ⟨Nat.lt_succ_self i, hn⟩

/-- The strip the first `n` strips give counter `c`: the CLAIMED one of greatest base, the later of two that tie
(R82). -/
def CurrentAmong (m : Memory) (c n : Nat) (best : Option (Nat × Nat)) : Prop :=
  (best = none → ∀ i < n, ∀ b, classifyStrip m i ≠ .claimed c b) ∧
  (∀ x b, best = some (x, b) →
    x < n ∧ classifyStrip m x = .claimed c b ∧
    ∀ i < n, ∀ b', classifyStrip m i = .claimed c b' → b' < b ∨ (b' = b ∧ i ≤ x))

theorem currentAmong_step {m : Memory} {c n : Nat} {best : Option (Nat × Nat)} (h : CurrentAmong m c n best) :
    CurrentAmong m c (n + 1) (betterStrip m c best n) := by
  obtain ⟨hnone, hsome⟩ := h
  by_cases hbetter : ∃ base, classifyStrip m n = .claimed c base ∧ (best.map (fun b => b.2)).getD 0 ≤ base
  · obtain ⟨base, hclaimed, hle⟩ := hbetter
    have hstep : betterStrip m c best n = some (n, base) := by
      simp only [betterStrip, hclaimed, hle, true_and, if_true]
    rw [hstep]
    refine ⟨fun hn => absurd hn (by simp), fun x b hx => ?_⟩
    cases hx
    refine ⟨Nat.lt_succ_self n, hclaimed, fun i hi b' hb' => ?_⟩
    rcases Nat.lt_succ_iff_lt_or_eq.1 hi with hlt | rfl
    · cases hbest : best with
      | none => exact absurd hb' (hnone hbest i hlt b')
      | some y =>
        obtain ⟨x, b⟩ := y
        rw [hbest] at hle
        have hle' : b ≤ base := hle
        rcases (hsome x b hbest).2.2 i hlt b' hb' with hlt' | ⟨rfl, -⟩
        · exact .inl (by omega)
        · rcases Nat.lt_or_ge b' base with hb | hb
          · exact .inl hb
          · exact .inr ⟨by omega, by omega⟩
    · cases hclaimed.symm.trans hb'
      exact .inr ⟨rfl, Nat.le_refl _⟩
  · have hstep : betterStrip m c best n = best := by
      unfold betterStrip
      cases hclass : classifyStrip m n with
      | free => rfl
      | dead => rfl
      | claimed counter base =>
        refine if_neg ?_
        rintro ⟨rfl, hle⟩
        exact hbetter ⟨base, hclass, hle⟩
    have hnew : ∀ b', classifyStrip m n = .claimed c b' → b' < (best.map (fun b => b.2)).getD 0 := by
      intro b' hb'
      exact Nat.lt_of_not_le fun hle => hbetter ⟨b', hb', hle⟩
    rw [hstep]
    refine ⟨fun hn i hi b' hb' => ?_, fun x b hx => ?_⟩
    · rcases Nat.lt_succ_iff_lt_or_eq.1 hi with hlt | rfl
      · exact hnone hn i hlt b' hb'
      · have := hnew b' hb'
        rw [hn] at this
        exact absurd this (Nat.not_lt_zero b')
    · obtain ⟨hlt, hclaimed, hgreatest⟩ := hsome x b hx
      refine ⟨by omega, hclaimed, fun i hi b' hb' => ?_⟩
      rcases Nat.lt_succ_iff_lt_or_eq.1 hi with hlt' | rfl
      · exact hgreatest i hlt' b' hb'
      · have := hnew b' hb'
        rw [hx] at this
        exact .inl this

theorem currentAmong_foldl (m : Memory) (c n : Nat) :
    CurrentAmong m c n ((List.range n).foldl (betterStrip m c) none) := by
  induction n with
  | zero => exact ⟨fun _ i hi => absurd hi (Nat.not_lt_zero i), fun x b hx => absurd hx (by simp)⟩
  | succ n ih =>
    rw [List.range_succ, List.foldl_append]
    exact currentAmong_step ih

theorem mountCounter_id (m : Memory) (c : Nat) : (mountCounter m c).id = c := by
  unfold mountCounter
  split <;> rfl

/-- A counter's entry in the table the mount builds (R82). -/
theorem find_mountCounters (m : Memory) {c : Nat} (hc : c < 16) :
    (mountCounters m).find? (fun e => e.id == c) = some (mountCounter m c) := by
  have hfind : (List.range 16).find? ((fun e => e.id == c) ∘ mountCounter m) = some c := by
    rw [List.find?_range_eq_some]
    refine ⟨by simp [mountCounter_id], by simpa using hc, fun i hi => ?_⟩
    simp [mountCounter_id, Nat.ne_of_lt hi]
  rw [mountCounters, List.find?_map, hfind]
  rfl

/-- The offers for weak claims are of distinct words, one at most for each counter (R116). -/
theorem length_claimOffers_le (m : Memory) (counters : List CounterEntry) :
    (claimOffers m counters).length ≤ counters.length := by
  have hsub : ((List.range Config.stripCount).filter
      (fun s => counters.any (fun e => e.strip == some s) && claimWeak m s)) ⊆
      counters.filterMap (fun e => e.strip) := by
    intro n hn
    obtain ⟨-, hp⟩ := List.mem_filter.1 hn
    obtain ⟨hany, -⟩ := Bool.and_eq_true_iff.1 hp
    obtain ⟨e, he, hstrip⟩ := List.any_eq_true.1 hany
    exact List.mem_filterMap.2 ⟨e, he, by simpa using hstrip⟩
  have hnodup := List.Nodup.filter (fun s => counters.any (fun e => e.strip == some s) && claimWeak m s)
    (List.nodup_range (n := Config.stripCount))
  unfold claimOffers
  rw [List.length_map]
  exact ((hnodup.subperm hsub).length_le).trans (List.length_filterMap_le _ _)

theorem pairwise_claimOffers (m : Memory) (counters : List CounterEntry) :
    (claimOffers m counters).Pairwise (fun x y => x.word ≠ y.word) := by
  unfold claimOffers
  rw [List.pairwise_map]
  have hword : ∀ a b : Nat, a ≠ b → stripWord a 1 ≠ stripWord b 1 := by
    intro a b hne hw
    simp only [stripWord] at hw
    omega
  exact List.Pairwise.imp (fun {a b} hne => hword a b hne) (List.Nodup.filter _ List.nodup_range)

/-- The offers for weak claims, in numbers (R116). -/
theorem claimOffers_eq (m : Memory) (counters : List CounterEntry) :
    claimOffers m counters =
      ((List.range 512).filter (fun n =>
        counters.any (fun e => e.strip == some n) &&
          readNormal m (39 + 8 * n) != readMargin m (39 + 8 * n))).map (fun n => ⟨.touchUp, 39 + 8 * n⟩) := by
  have hword : ∀ n, stripWord n 1 = 39 + 8 * n := by
    intro n; unfold stripWord Config.poolStart; omega
  simp only [claimOffers, claimWeak, hword]

/-- The state of a strip in numbers (Table 5-2). -/
theorem stripBlank_iff (m : Memory) (n : Nat) :
    stripBlank m n = true ↔ ∀ k < 8, readNormal m (38 + 8 * n + k) = 0#32 := by
  simp [stripBlank, stripWord]

theorem finishStrips_eq (s : State) :
    finishStrips s =
      { mountOffers (claimOffers s.array (mountCounters s.array)) s with
        counters := mountCounters s.array
        log := { s.log with stripCursor := mountCursor s.array }
        mount := { (mountOffers (claimOffers s.array (mountCounters s.array)) s).mount with
          phase := .records
          report := { (mountOffers (claimOffers s.array (mountCounters s.array)) s).mount.report with
            claimedStrips := (stripClasses s.array).countP StripClass.isClaimed
            deadStrips := (stripClasses s.array).countP (fun c => c == .dead) } } } := by
  have hlog : (mountOffers (claimOffers s.array (mountCounters s.array)) s).log = s.log := by
    rw [mountOffers_frame]
  unfold finishStrips
  dsimp only
  rw [hlog]

/-- Settles O19: the cursor, each counter's strip, the offers, and the classes. -/
theorem mountStripsBuildsCounters : Obligations.MountStripsBuildsCounters := by
  unfold Obligations.MountStripsBuildsCounters
  refine ⟨fun s hdevice hpower hrst hphase => ?mount, fun m n => ?classes⟩
  case classes =>
    refine ⟨stripBlank_iff m n, ?_, fun p _ => ?_, rfl⟩
    · have hbase : stripWord n 0 = 38 + 8 * n := rfl
      have hclaim : stripWord n 1 = 39 + 8 * n := by unfold stripWord Config.poolStart; omega
      unfold classifyStrip
      rw [hbase, hclaim]
      simp only [stripBlank_iff]
      split
      · rfl
      · cases decodeBase (readNormal m (38 + 8 * n)) <;> cases decodeClaim (readNormal m (39 + 8 * n)) <;> rfl
    · have hword : stripWord n (2 + p / 32) = 40 + 8 * n + p / 32 := by unfold stripWord Config.poolStart; omega
      unfold positionSet
      rw [hword]
  case mount =>
    have hexec : exec .mountStrips s = .next (finishStrips s) := by
      change execMountStrips s = _
      rw [execMountStrips, mountDue_eq_true hdevice hpower hrst hphase, if_pos rfl]
    have hframe := mountOffers_frame (claimOffers s.array (mountCounters s.array)) s
    have hentry : ∀ c < 16, counterEntry (finishStrips s) c = mountCounter s.array c := by
      intro c hc
      rw [counterEntry, finishStrips_eq]
      dsimp only
      rw [find_mountCounters s.array hc]
      exact Option.getD_some
    obtain ⟨hfree, hlast⟩ := foldl_mountCursor s.array Config.stripCount
    have hcursor : (finishStrips s).log.stripCursor = mountCursor s.array := by rw [finishStrips_eq]
    have hphase' : (finishStrips s).mount.phase = .records := by rw [finishStrips_eq]
    have hcounters : (finishStrips s).counters = mountCounters s.array := by rw [finishStrips_eq]
    refine ⟨_, hexec, ?_, hphase', ?_, ?_, by rw [hcursor]; exact hfree, by rw [hcursor]; exact hlast, ?_,
      fun c hc => ?_, ?_⟩
    · rw [finishStrips_eq, hframe]; exact hdevice
    · rw [finishStrips_eq, hframe]
    · rw [finishStrips_eq, hframe]
    · rw [hcounters, mountCounters, List.map_map]
      simp only [Function.comp_def, mountCounter_id, List.map_id']
    · rw [hentry c hc]
      obtain ⟨hnone, hsome⟩ := currentAmong_foldl s.array c Config.stripCount
      have hcurrent : currentStrip s.array c = (List.range Config.stripCount).foldl (betterStrip s.array c) none := rfl
      rw [← hcurrent] at hnone hsome
      unfold mountCounter
      cases hbest : currentStrip s.array c with
      | none => exact ⟨fun _ => ⟨rfl, hnone hbest⟩, fun n hn => absurd hn (by simp [noStripEntry])⟩
      | some y =>
        obtain ⟨x, b⟩ := y
        refine ⟨fun hn => absurd hn (by simp), fun n hn => ?_⟩
        cases hn
        obtain ⟨hlt, hclaimed, hgreatest⟩ := hsome x b hbest
        obtain ⟨hset, hbound⟩ := foldl_lastOf (positionSet s.array x) Config.stripPositions
        exact ⟨hlt, hclaimed, hgreatest, rfl, hbound, hset, fun hvalue => counterField_of_le hvalue⟩
    · have hlength : (claimOffers s.array (mountCounters s.array)).length ≤ 16 :=
        (length_claimOffers_le _ _).trans (Nat.le_of_eq (by simp [mountCounters]))
      have hon : autoRepairOff s = false → s.repair.entries = [] →
          mountOffers (claimOffers s.array (mountCounters s.array)) s =
            { s with repair := { s.repair with entries := claimOffers s.array (mountCounters s.array) } } := by
        intro hoff hempty
        rw [mountOffers_offered _ hoff (by rw [hempty]; simp) (by rw [hempty]; simp) (pairwise_claimOffers _ _)]
        have hdropped : s.repair.entries.length + (claimOffers s.array (mountCounters s.array)).length - 32 = 0 := by
          rw [hempty]; simp only [List.length_nil]; omega
        rw [hdropped, hempty, List.nil_append, List.take_of_length_le (by omega), Nat.add_zero]
      have hclaimed : ∀ f : Nat → Bool, (∀ n, StripClass.isClaimed (classifyStrip s.array n) = f n) →
          (stripClasses s.array).countP StripClass.isClaimed = (List.range 512).countP f := by
        intro f hf
        rw [stripClasses, List.countP_map]
        exact congrArg (fun g => List.countP g (List.range 512)) (funext hf)
      have hdead : (stripClasses s.array).countP (fun c => c == .dead) =
          (List.range 512).countP (fun n => classifyStrip s.array n == .dead) := by
        rw [stripClasses, List.countP_map]; rfl
      refine ⟨claimOffers s.array (mountCounters s.array), (finishStrips s).mount.report.withheld,
        claimOffers_eq _ _, fun hoff => ?_, fun hoff hempty => ?_, fun hempty => ?_⟩
      · rw [finishStrips_eq, mountOffers_withheld _ hoff]
        exact ⟨rfl, rfl⟩
      · rw [finishStrips_eq, hon hoff hempty]
        exact ⟨rfl, rfl⟩
      · have hreport : (finishStrips s).mount.report = { s.mount.report with
            claimedStrips := (stripClasses s.array).countP StripClass.isClaimed
            deadStrips := (stripClasses s.array).countP (fun c => c == .dead)
            withheld := (finishStrips s).mount.report.withheld } := by
          rw [finishStrips_eq]
          cases hoff : autoRepairOff s with
          | true => rw [mountOffers_withheld _ hoff]
          | false => rw [hon hoff hempty]
        rw [hreport, hdead]
        simp only [MountReport.mk.injEq, true_and, and_true]
        refine hclaimed _ fun n => ?_
        cases classifyStrip s.array n <;> rfl

/-! ### Lines after an arrival (R151, R152) -/

@[simp] theorem lineMoved_ring (level enabled : Bool) (q : PortState) : (lineMoved level enabled q).ring = q.ring := by
  cases level <;> cases enabled <;> rfl

/-- A notice at a port: its ring, and its line and pulse by the port's mode (R148, R151, R152). -/
theorem noticed_ring (level : Bool) (n : Notice) (q : PortState) : (noticed level n q).ring = ringWith q n :=
  lineMoved_ring _ _ _

theorem noticed_level (n : Notice) (q : PortState) :
    (noticed true n q).lineLow = workWaiting (noticed true n q) := rfl

theorem noticed_pulse (n : Notice) (q : PortState) (h : noticeEnabled q.mask n.kind = true) :
    (noticed false n q).lineLow = true ∧ (noticed false n q).pulseActive = true := by
  obtain ⟨kind, _, _, _⟩ := n
  unfold noticed lineMoved
  cases kind <;> exact ⟨by rw [if_neg (by simp), if_pos (by exact h)], by rw [if_neg (by simp), if_pos (by exact h)]⟩

/-! ### SORT (R66, R121, Table 4-5) -/

/-- A commit of a key that has no entry inserts one (R67). -/
theorem length_dirPut_of_none {d : List DirEntry} {e : DirEntry} (h : dirFind d e.key = none) :
    (dirPut d e).length = d.length + 1 := by
  induction d with
  | nil => rfl
  | cons x rest ih =>
    rw [dirFind_cons] at h
    by_cases hk : x.key = e.key
    · rw [if_pos hk] at h; cases h
    · rw [if_neg hk] at h
      unfold dirPut
      split
      · rfl
      · rw [if_neg (fun he => hk he.symm), List.length_cons, ih h, List.length_cons]

/-- The directory built of a key table with distinct keys (R66, R121). -/
theorem buildDirectory_spec (table : List KeyRecord) (h : table.Pairwise (fun x y => x.key ≠ y.key)) :
    (buildDirectory table).Pairwise (fun x y => x.key < y.key) ∧
    (buildDirectory table).length = table.length ∧
    (∀ k ∈ table, dirFind (buildDirectory table) k.key = some (winnerEntry k)) ∧
    (∀ key, (∀ k ∈ table, k.key ≠ key) → dirFind (buildDirectory table) key = none) := by
  induction table using List.reverseRecOn with
  | nil => exact ⟨List.Pairwise.nil, rfl, fun k hk => (List.not_mem_nil hk).elim, fun _ _ => rfl⟩
  | append_singleton table k ih =>
    obtain ⟨hfront, -, hnew⟩ := List.pairwise_append.1 h
    obtain ⟨horder, hlength, hfound, habsent⟩ := ih hfront
    have hbuild : buildDirectory (table ++ [k]) = dirPut (buildDirectory table) (winnerEntry k) := by
      rw [buildDirectory, List.foldl_append]; rfl
    have hkey : (winnerEntry k).key = k.key := rfl
    rw [hbuild]
    refine ⟨pairwise_dirPut horder _, ?_, fun x hx => ?_, fun key hkeys => ?_⟩
    · have hnone : dirFind (buildDirectory table) (winnerEntry k).key = none :=
        habsent _ fun x hx => hnew x hx k (List.mem_singleton_self k)
      rw [length_dirPut_of_none hnone, hlength, List.length_append, List.length_singleton]
    · rcases List.mem_append.1 hx with hold | hlast
      · rw [dirFind_dirPut_other _ (hnew x hold k (List.mem_singleton_self k))]
        exact hfound x hold
      · cases List.mem_singleton.1 hlast
        exact dirFind_dirPut_same _ (winnerEntry k)
    · have hne : key ≠ (winnerEntry k).key := by
        rw [hkey]
        exact (hkeys k (List.mem_append_right _ (List.mem_singleton_self k))).symm
      rw [dirFind_dirPut_other _ hne]
      exact habsent key fun x hx => hkeys x (List.mem_append_left _ hx)

/-- Settles O21: the directory of the key table, then MOUNT_DONE at every port. -/
theorem mountSortBuildsDirectory : Obligations.MountSortBuildsDirectory := by
  unfold Obligations.MountSortBuildsDirectory
  intro s hdevice hpower hrst hphase hkeys
  have hexec : exec .mountSort s = .next (finishSort s) := by
    change execMountSort s = _
    rw [execMountSort, mountDue_eq_true hdevice hpower hrst hphase, if_pos rfl]
  obtain ⟨horder, hlength, hfound, habsent⟩ := buildDirectory_spec s.mount.keyTable hkeys
  have same := sameBlocks_postNotice mountDoneNotice
    { s with
      directory := buildDirectory s.mount.keyTable
      device := .ready
      mount :=
        { s.mount with
          phase := .ready
          walk := Config.recordStart
          keyTable := []
          greatest := none
          report := { s.mount.report with
            live := countState (buildDirectory s.mount.keyTable) .live
            deleted := countState (buildDirectory s.mount.keyTable) .deleted
            lost := countState (buildDirectory s.mount.keyTable) .lost } } }
  have hdirectory : (finishSort s).directory = buildDirectory s.mount.keyTable := same.directory
  have hmount : (finishSort s).mount.phase = .ready ∧ (finishSort s).mount.report =
      { s.mount.report with
        live := countState (buildDirectory s.mount.keyTable) .live
        deleted := countState (buildDirectory s.mount.keyTable) .deleted
        lost := countState (buildDirectory s.mount.keyTable) .lost } :=
    ⟨congrArg MountScanner.phase same.mount, congrArg MountScanner.report same.mount⟩
  refine ⟨_, hexec, same.device, hmount.1, same.array, same.repair, same.log, ?_, ?_, fun k hk hseq => ?_,
    fun key hkey => ?_, ?_, fun p hring => ?_⟩
  · rw [hdirectory]; exact horder
  · rw [hdirectory]; exact hlength
  · have hfield : sequenceField k.winner.seq = k.winner.seq := if_pos hseq
    rw [hdirectory, hfound k hk, winnerEntry, hfield]
    rfl
  · rw [hdirectory]; exact habsent key hkey
  · rw [hmount.2, hdirectory]; rfl
  · have hport : (finishSort s).port p = noticed (alertLevel s p) mountDoneNotice (s.port p) := by
      unfold finishSort
      dsimp only
      refine (port_postNotice _ _ p).trans ((if_pos rfl).trans ?_)
      rw [port_arriveNotice_noticed]
      cases p <;> rfl
    have hnot : ¬ 16 ≤ (s.port p).ring.length := by omega
    have hmode : (copyWord s 1).getLsbD (portIndex p) = alertLevel s p := rfl
    rw [hport, hmode]
    refine ⟨?_, fun hlevel => ?_, fun hlevel henabled => ?_⟩
    · rw [noticed_ring]; exact if_neg hnot
    · rw [hlevel]; exact noticed_level _ _
    · rw [hlevel]; exact noticed_pulse mountDoneNotice _ henabled

end Sys2Proof.Machine
end

section
/-! The RECORDS phase (R45, R49, R73 to R76, R117 to R120): the walk, the winners and the stale records, the offers. -/

namespace Sys2Proof.Machine

/-! ### The walk (R45, R117, R118) -/

/-- What a walk from `pos` comes to, `starts` being the units it takes (R117, R118). -/
structure WalkOk (m : Memory) (pos : Nat) (before : Option Nat) (w : Walk) (starts : List Nat) : Prop where
  first : (starts ++ [w.stop]).head? = some pos
  steps : ∀ i h, starts[i]? = some h →
    h < 16384 ∧ readNormal m h ≠ 0#32 ∧ (starts ++ [w.stop])[i + 1]? = some (h + recordLength m h)
  stop : w.stop = 16384 ∨ w.stop < 16384 ∧ readNormal m w.stop = 0#32
  locations : w.found.map (fun r => r.location) = starts.filter (fun h => (spanHeader m h).isSome)
  reads : ∀ r ∈ w.found, spanHeader m r.location = some r.header ∧ r.cls = classifyRecord m r.location ∧
    r.sound = isSoundCommit m r.location r.header.w
  head : ∀ r, w.found.head? = some r → r.seq = sequenceRead (readNormal m (r.location + 1)) before
  next : ∀ i x y, w.found[i]? = some x → w.found[i + 1]? = some y →
    y.seq = sequenceRead (readNormal m (y.location + 1)) (some x.seq)
  torn : w.tornHeaders = starts.countP (fun h => (spanHeader m h).isNone)
  lower : ∀ r ∈ w.found, pos ≤ r.location ∧ ∀ b, before = some b → b < r.seq
  order : w.found.Pairwise (fun x y => x.location + 5 + x.header.w ≤ y.location ∧ x.seq < y.seq)

/-- The walk stops. -/
theorem WalkOk.stopped {m : Memory} {pos : Nat} (before : Option Nat)
    (h : pos = 16384 ∨ pos < 16384 ∧ readNormal m pos = 0#32) : WalkOk m pos before ⟨[], 0, pos⟩ [] where
  first := rfl
  steps i h hi := by simp at hi
  stop := h
  locations := rfl
  reads r hr := (List.not_mem_nil hr).elim
  head r hr := by simp at hr
  next i x y hx := by simp at hx
  torn := rfl
  lower r hr := (List.not_mem_nil hr).elim
  order := List.Pairwise.nil

/-- One unit more at the walk's start. -/
theorem steps_cons {m : Memory} {pos stop : Nat} {starts : List Nat} (hpos : pos < 16384)
    (hword : readNormal m pos ≠ 0#32) (hfirst : (starts ++ [stop]).head? = some (pos + recordLength m pos))
    (hsteps : ∀ i h, starts[i]? = some h →
      h < 16384 ∧ readNormal m h ≠ 0#32 ∧ (starts ++ [stop])[i + 1]? = some (h + recordLength m h)) :
    ∀ i h, (pos :: starts)[i]? = some h →
      h < 16384 ∧ readNormal m h ≠ 0#32 ∧ (pos :: starts ++ [stop])[i + 1]? = some (h + recordLength m h) := by
  intro i h hi
  cases i with
  | zero =>
    cases hi
    refine ⟨hpos, hword, ?_⟩
    rw [List.cons_append, List.getElem?_cons_succ, ← List.head?_eq_getElem?]
    exact hfirst
  | succ i =>
    rw [List.cons_append, List.getElem?_cons_succ]
    exact hsteps i h hi

/-- A TORN_HEADER, stepped over by one word. -/
theorem WalkOk.tornHeader {m : Memory} {pos : Nat} {before : Option Nat} {w : Walk} {starts : List Nat}
    (hpos : pos < 16384) (hword : readNormal m pos ≠ 0#32) (hspan : spanHeader m pos = none)
    (h : WalkOk m (pos + 1) before w starts) :
    WalkOk m pos before { w with tornHeaders := w.tornHeaders + 1 } (pos :: starts) where
  first := rfl
  steps := by
    have hlen : recordLength m pos = 1 := by rw [recordLength, hspan]
    exact steps_cons hpos hword (by rw [hlen]; exact h.first) h.steps
  stop := h.stop
  locations := by
    rw [List.filter_cons_of_neg (by simp [hspan])]
    exact h.locations
  reads := h.reads
  head := h.head
  next := h.next
  torn := by
    rw [List.countP_cons_of_pos (by simp [hspan])]
    exact congrArg (fun n => n + 1) h.torn
  lower r hr := ⟨by have := (h.lower r hr).1; omega, (h.lower r hr).2⟩
  order := h.order

theorem le_sequenceRead (word : Word) {b : Nat} : b < sequenceRead word (some b) := by
  unfold sequenceRead
  exact Nat.lt_of_lt_of_le (Nat.lt_succ_self b) (Nat.le_max_right _ _)

/-- A record with a valid header, stepped over by its span. -/
theorem WalkOk.record {m : Memory} {pos : Nat} {before : Option Nat} {w : Walk} {starts : List Nat} {hdr : Header}
    (hpos : pos < 16384) (hword : readNormal m pos ≠ 0#32) (hspan : spanHeader m pos = some hdr)
    (h : WalkOk m (pos + spanLength hdr.w) (some (sequenceRead (readNormal m (pos + 1)) before)) w starts) :
    WalkOk m pos before
      { w with
        found := ⟨pos, hdr, classifyRecord m pos, sequenceRead (readNormal m (pos + 1)) before,
          isSoundCommit m pos hdr.w⟩ :: w.found }
      (pos :: starts) where
  first := rfl
  steps := by
    have hlen : recordLength m pos = spanLength hdr.w := by rw [recordLength, hspan]
    exact steps_cons hpos hword (by rw [hlen]; exact h.first) h.steps
  stop := h.stop
  locations := by
    rw [List.filter_cons_of_pos (by simp [hspan])]
    exact congrArg (fun l => pos :: l) h.locations
  reads r hr := by
    rcases List.mem_cons.1 hr with rfl | hr
    · exact ⟨hspan, rfl, rfl⟩
    · exact h.reads r hr
  head r hr := by cases hr; rfl
  next i x y hx hy := by
    cases i with
    | zero =>
      cases hx
      rw [List.getElem?_cons_succ, ← List.head?_eq_getElem?] at hy
      exact h.head y hy
    | succ i => exact h.next i x y hx hy
  torn := by
    rw [List.countP_cons_of_neg (by simp [hspan])]
    exact h.torn
  lower r hr := by
    rcases List.mem_cons.1 hr with rfl | hr
    · exact ⟨Nat.le_refl _, fun b hb => by subst hb; exact le_sequenceRead _⟩
    · obtain ⟨hloc, hseq⟩ := h.lower r hr
      refine ⟨by omega, fun b hb => ?_⟩
      subst hb
      exact (le_sequenceRead _).trans (hseq _ rfl)
  order := by
    refine List.pairwise_cons.2 ⟨fun r hr => ?_, h.order⟩
    obtain ⟨hloc, hseq⟩ := h.lower r hr
    unfold spanLength at hloc
    exact ⟨by dsimp only; omega, hseq _ rfl⟩

theorem spanHeader_fits {m : Memory} {h : Nat} {hdr : Header} (hspan : spanHeader m h = some hdr) :
    h + 4 + hdr.w < 16384 := by
  unfold spanHeader at hspan
  split at hspan
  · split at hspan
    · next hfits => cases hspan; exact hfits
    · cases hspan
  · cases hspan

/-- The walk with enough fuel for the words above its start. -/
theorem walkRecords_ok (m : Memory) (fuel pos : Nat) (before : Option Nat) (hpos : pos ≤ 16384)
    (hfuel : 16384 ≤ pos + fuel) : ∃ starts, WalkOk m pos before (walkRecords m fuel pos before) starts := by
  induction fuel generalizing pos before with
  | zero => exact ⟨[], WalkOk.stopped before (.inl (by omega))⟩
  | succ fuel ih =>
    unfold walkRecords
    by_cases hend : Config.arrayWords ≤ pos
    · rw [if_pos hend]
      exact ⟨[], WalkOk.stopped before (.inl (Nat.le_antisymm hpos hend))⟩
    · have hlt : pos < 16384 := Nat.lt_of_not_le hend
      rw [if_neg hend]
      by_cases hword : readNormal m pos = 0#32
      · rw [if_pos hword]
        exact ⟨[], WalkOk.stopped before (.inr ⟨hlt, hword⟩)⟩
      · rw [if_neg hword]
        cases hspan : spanHeader m pos with
        | none =>
          obtain ⟨starts, hok⟩ := ih (pos + 1) before (by omega) (by omega)
          exact ⟨_, hok.tornHeader hlt hword hspan⟩
        | some hdr =>
          have hfits := spanHeader_fits hspan
          obtain ⟨starts, hok⟩ := ih (pos + spanLength hdr.w) (some (sequenceRead (readNormal m (pos + 1)) before))
            (by unfold spanLength; omega) (by unfold spanLength; omega)
          exact ⟨_, hok.record hlt hword hspan⟩

/-- The greatest sequence is the last record's, the sequences as read rising (R45, R118). -/
theorem greatestSequence_eq {found : List FoundRecord} (h : found.Pairwise (fun x y => x.seq < y.seq)) :
    greatestSequence found = found.getLast?.map (fun r => r.seq) := by
  induction found using List.reverseRecOn with
  | nil => rfl
  | append_singleton found r ih =>
    obtain ⟨hfront, -, hlast⟩ := List.pairwise_append.1 h
    have hfold : greatestSequence (found ++ [r]) = some (max ((greatestSequence found).getD 0) r.seq) := by
      rw [greatestSequence, List.foldl_append]; rfl
    rw [hfold, ih hfront, List.getLast?_append]
    cases hg : found.getLast? with
    | none => simp
    | some x =>
      have hx : x.seq < r.seq := hlast x (List.mem_of_getLast? hg) r (List.mem_singleton_self r)
      simp [Nat.max_eq_right (Nat.le_of_lt hx)]

/-! ### Winners, admitted and stale records (R73, R76, R120) -/

theorem competes_eq (c : RecordClass) : competes c = decide (c = .candidate ∨ c = .damaged) := by
  cases c <;> rfl

/-- The records that compete (R49, R73). -/
def competing (found : List FoundRecord) : List FoundRecord := found.filter (fun r => competes r.cls)

/-- Of the competing records of a key none has a greater sequence than `r` (R73). -/
def greatestOfKey (rivals : List FoundRecord) (r : FoundRecord) : Bool :=
  rivals.all (fun x => x.header.key != r.header.key || decide (x.seq ≤ r.seq))

theorem greatestOfKey_iff (rivals : List FoundRecord) (r : FoundRecord) :
    greatestOfKey rivals r = true ↔ ∀ x ∈ rivals, x.header.key = r.header.key → x.seq ≤ r.seq := by
  simp only [greatestOfKey, List.all_eq_true, Bool.or_eq_true, bne_iff_ne, decide_eq_true_eq, ne_eq]
  exact forall₂_congr fun x _ => by rw [← imp_iff_not_or]

/-- The latest competing record of each key is that of the greatest sequence (R73). -/
theorem winners_eq {found : List FoundRecord} (h : found.Pairwise (fun x y => x.seq < y.seq)) :
    winners found = (competing found).filter (greatestOfKey (competing found)) := by
  induction found with
  | nil => rfl
  | cons r rest ih =>
    obtain ⟨hhead, htail⟩ := List.pairwise_cons.1 h
    have hmem : ∀ x ∈ competing rest, x ∈ rest ∧ competes x.cls = true := fun x hx => by
      simpa [competing] using hx
    unfold winners
    rw [ih htail]
    by_cases hc : competes r.cls = true
    · have hcons : competing (r :: rest) = r :: competing rest := List.filter_cons_of_pos hc
      have hrest : (competing rest).filter (greatestOfKey (competing (r :: rest))) =
          (competing rest).filter (greatestOfKey (competing rest)) := by
        refine List.filter_congr fun q hq => ?_
        have hlt : r.seq ≤ q.seq := Nat.le_of_lt (hhead q (hmem q hq).1)
        rw [hcons, greatestOfKey, List.all_cons]
        simp [hlt, greatestOfKey]
      have hwins : greatestOfKey (competing (r :: rest)) r = !supersededBy rest r := by
        rw [Bool.eq_iff_iff, greatestOfKey_iff, hcons, Bool.not_eq_true', Bool.eq_false_iff]
        refine ⟨fun hall hany => ?_, fun hnot x hx hkey => ?_⟩
        · obtain ⟨x, hx, hp⟩ := List.any_eq_true.1 hany
          obtain ⟨hcx, hkey⟩ := Bool.and_eq_true_iff.1 hp
          have hle := hall x (List.mem_cons_of_mem _ (List.mem_filter.2 ⟨hx, hcx⟩)) (by simpa using hkey)
          have := hhead x hx
          omega
        · rcases List.mem_cons.1 hx with rfl | hx
          · exact Nat.le_refl _
          · obtain ⟨hin, hcx⟩ := hmem x hx
            exact absurd (List.any_eq_true.2 ⟨x, hin, by simp [hcx, hkey]⟩) hnot
      rw [hcons, List.filter_cons, ← hcons, hrest, hwins, hc, Bool.true_and]
    · have hcons : competing (r :: rest) = competing rest := List.filter_cons_of_neg hc
      rw [hcons, if_neg (by simp [hc])]

theorem mem_admitWinners {ws : List FoundRecord} {r : FoundRecord} (h : r ∈ admitWinners ws) : r ∈ ws := by
  unfold admitWinners at h
  split at h
  · exact h
  · rcases List.mem_append.1 (List.mem_of_mem_take h) with hs | hs
    · exact (List.mem_filter.1 hs).1
    · exact (List.mem_filter.1 hs).1

/-- Records that stand in order are told apart by their place, and by their sequence. -/
theorem eq_of_order {found : List FoundRecord}
    (h : found.Pairwise (fun x y => x.location + 5 + x.header.w ≤ y.location ∧ x.seq < y.seq)) {x y : FoundRecord}
    (hx : x ∈ found) (hy : y ∈ found) (hsame : x.location = y.location ∨ x.seq = y.seq) : x = y := by
  by_contra hne
  rcases List.Pairwise.forall_of_forall_of_flip (R := fun x y : FoundRecord =>
      x ≠ y → x.location ≠ y.location ∧ x.seq ≠ y.seq) (fun x _ hn => absurd rfl hn)
      (h.imp fun {a b} hab _ => ⟨by omega, by omega⟩) (h.imp fun {a b} hab _ => ⟨by omega, by omega⟩) hx hy hne with
    ⟨hloc, hseq⟩
  exact hsame.elim hloc hseq

/-- Two winners of one key are one record. -/
theorem winners_unique {found : List FoundRecord}
    (h : found.Pairwise (fun x y => x.location + 5 + x.header.w ≤ y.location ∧ x.seq < y.seq)) {x y : FoundRecord}
    (hx : x ∈ winners found) (hy : y ∈ winners found) (hkey : x.header.key = y.header.key) : x = y := by
  rw [winners_eq (h.imp fun hab => hab.2)] at hx hy
  obtain ⟨hxc, hxg⟩ := List.mem_filter.1 hx
  obtain ⟨hyc, hyg⟩ := List.mem_filter.1 hy
  have hle := (greatestOfKey_iff _ _).1 hyg x hxc hkey
  have hge := (greatestOfKey_iff _ _).1 hxg y hyc hkey.symm
  exact eq_of_order h (List.mem_filter.1 hxc).1 (List.mem_filter.1 hyc).1 (.inr (by omega))

theorem mem_winners {found : List FoundRecord} {r : FoundRecord} (h : r ∈ winners found) :
    r ∈ found ∧ competes r.cls = true := by
  induction found with
  | nil => cases h
  | cons x rest ih =>
    unfold winners at h
    split at h
    · next hw =>
      rcases List.mem_cons.1 h with rfl | h
      · exact ⟨List.mem_cons_self .., (Bool.and_eq_true_iff.1 hw).1⟩
      · exact ⟨List.mem_cons_of_mem _ (ih h).1, (ih h).2⟩
    · exact ⟨List.mem_cons_of_mem _ (ih h).1, (ih h).2⟩

section Admitted

variable {found admitted : List FoundRecord}
  (horder : found.Pairwise (fun x y => x.location + 5 + x.header.w ≤ y.location ∧ x.seq < y.seq))
  (hadmitted : ∀ r ∈ admitted, r ∈ winners found)

include horder hadmitted

theorem isAdmitted_iff {r : FoundRecord} (hr : r ∈ found) : isAdmitted admitted r = true ↔ r ∈ admitted := by
  unfold isAdmitted
  rw [List.any_eq_true]
  refine ⟨fun ⟨x, hx, hloc⟩ => ?_, fun hin => ⟨r, hin, by simp⟩⟩
  have hxr := eq_of_order horder (mem_winners (hadmitted x hx)).1 hr (.inl (by simpa using hloc))
  exact hxr ▸ hx

/-- The stale records are the others of the admitted keys (R73, R120). -/
theorem isStale_eq {r : FoundRecord} (hr : r ∈ found) :
    isStale admitted r = (admitted.any (fun x => x.header.key == r.header.key && x != r) && competes r.cls) := by
  rw [Bool.eq_iff_iff]
  simp only [isStale, Bool.and_eq_true, Bool.not_eq_true', Bool.eq_false_iff, List.any_eq_true, beq_iff_eq,
    bne_iff_ne, ne_eq, isAdmitted_iff horder hadmitted hr]
  refine ⟨fun ⟨⟨hc, hnot⟩, x, hx, hkey⟩ => ⟨⟨x, hx, hkey, fun he => hnot (he ▸ hx)⟩, hc⟩,
    fun ⟨⟨x, hx, hkey, hne⟩, hc⟩ => ⟨⟨hc, fun hin => hne ?_⟩, x, hx, hkey⟩⟩
  exact winners_unique horder (hadmitted x hx) (hadmitted r hin) hkey

theorem stale_eq :
    (competing found).filter (fun r => admitted.any (fun x => x.header.key == r.header.key && x != r)) =
      found.filter (isStale admitted) := by
  rw [competing, List.filter_filter]
  exact List.filter_congr fun r hr => (isStale_eq horder hadmitted hr).symm

omit hadmitted in
/-- The words offered stand in the records they are offered for, so no two are one (R120). -/
theorem pairwise_recordOffers : (recordOffers found admitted).Pairwise (fun x y => x.word ≠ y.word) := by
  have hword : ∀ r e, recordOffer admitted r = some e →
      r.location + 3 + r.header.w ≤ e.word ∧ e.word ≤ r.location + 4 + r.header.w := by
    intro r e he
    unfold recordOffer retireIndex commitIndex at he
    split at he
    · cases he; exact ⟨by dsimp only; omega, by dsimp only; omega⟩
    · split at he
      · cases he; exact ⟨by dsimp only; omega, by dsimp only; omega⟩
      · cases he
  unfold recordOffers
  refine List.Pairwise.filterMap _ (fun x y hxy e he e' he' hsame => ?_) horder
  have hx := hword x e he
  have hy := hword y e' he'
  omega

end Admitted

/-- The words offered stand above the record region's first (R120). -/
theorem recordStart_le_recordOffers {found admitted : List FoundRecord} {n : Nat}
    (h : ∀ r ∈ found, n ≤ r.location) : ∀ e ∈ recordOffers found admitted, n ≤ e.word := by
  intro e he
  obtain ⟨r, hr, hoffer⟩ := List.mem_filterMap.1 he
  have := h r hr
  unfold recordOffer retireIndex commitIndex at hoffer
  split at hoffer
  · cases hoffer; dsimp only; omega
  · split at hoffer
    · cases hoffer; dsimp only; omega
    · cases hoffer

/-! ### The classes (Table 3-3) -/

/-- The words under a record's check are its first 2 + W (R46). -/
theorem checkPasses_iff (m : Memory) (h w : Nat) :
    checkPasses m h w = true ↔
      crc32 (((List.range (2 + w)).map (fun i => readNormal m (h + i))).flatMap (fun v => leBytes v.toNat 4)) =
        readNormal m (h + 2 + w) := by
  have hwords : (List.range (2 + w)).map (fun i => readNormal m (h + i)) =
      readNormal m h :: readNormal m (h + 1) :: payloadWords m h w := by
    rw [Nat.add_comm 2 w, List.range_succ_eq_map, List.range_succ_eq_map]
    simp only [List.map_cons, List.map_map]
    refine congrArg₂ List.cons rfl (congrArg₂ List.cons rfl (List.map_congr_left fun i _ => ?_))
    refine congrArg (readNormal m) (?_ : h + (i + 1 + 1) = h + 2 + i)
    omega
  rw [hwords]
  unfold checkPasses recordCheck checkIndex
  rw [beq_iff_eq]
  rfl

theorem classifyRecord_spec (m : Memory) (h : Nat) :
    spanHeader m h = (decodeHeader (readNormal m h)).filter (fun hdr => decide (h + 4 + hdr.w ≤ 16383)) ∧
    (readNormal m h = 0#32 → classifyRecord m h = .blank) ∧
    (readNormal m h ≠ 0#32 → spanHeader m h = none → classifyRecord m h = .tornHeader) ∧
    (∀ hdr : Header, readNormal m h ≠ 0#32 → spanHeader m h = some hdr →
      classifyRecord m h =
        if readNormal m (h + 3 + hdr.w) ≠ BitVec.allOnes 32 then .torn
        else if readNormal m (h + 4 + hdr.w) ≠ 0#32 then .retired
        else if crc32 (((List.range (2 + hdr.w)).map (fun i => readNormal m (h + i))).flatMap
            (fun v => leBytes v.toNat 4)) ≠ readNormal m (h + 2 + hdr.w) then .damaged
        else .candidate) := by
  refine ⟨?_, fun hz => by rw [classifyRecord, if_pos hz], fun hnz hspan => by rw [classifyRecord, if_neg hnz, hspan],
    fun hdr hnz hspan => ?_⟩
  · unfold spanHeader
    cases decodeHeader (readNormal m h) with
    | none => rfl
    | some hdr =>
      have hfits : retireIndex h hdr.w < Config.arrayWords ↔ h + 4 + hdr.w ≤ 16383 := Nat.lt_succ_iff
      by_cases hf : h + 4 + hdr.w ≤ 16383
      · simp [Option.filter, hfits, hf]
      · simp [Option.filter, hfits, hf]
  · have hcommitted : isCommitted m h hdr.w = true ↔ readNormal m (h + 3 + hdr.w) = BitVec.allOnes 32 := by
      unfold isCommitted commitIndex; exact beq_iff_eq
    have hretired : isRetired m h hdr.w = true ↔ readNormal m (h + 4 + hdr.w) ≠ 0#32 := by
      unfold isRetired retireIndex; exact bne_iff_ne
    rw [classifyRecord, if_neg hnz, hspan]
    simp only [Bool.not_eq_true', ← Bool.not_eq_true, hcommitted, hretired, checkPasses_iff, ne_eq]

/-! ### The phase (R117 to R120) -/

/-- What the phase sets beside the report's counts of its offers. -/
theorem finishRecords_eq (s : State) {walk : Walk} (hwalk : recordWalk s.array = walk)
    {admitted : List FoundRecord} (hadmitted : admitWinners (winners walk.found) = admitted) :
    finishRecords s =
      { s with
        log := ⟨walk.stop, mountNextSeq (greatestSequence walk.found), s.log.stripCursor⟩
        repair := (mountOffers (recordOffers walk.found admitted) s).repair
        mount := ⟨.sort, walk.stop, keyTableOf walk.found admitted, greatestSequence walk.found,
          { s.mount.report with
            notAdmitted := (winners walk.found).length - admitted.length
            torn := countClass walk.found .torn
            tornHeader := walk.tornHeaders
            damaged := countClass walk.found .damaged
            stale := walk.found.countP (isStale admitted)
            retired := countClass walk.found .retired
            appendPoint := walk.stop
            freeWords := freeWords walk.stop
            nextSeq := mountNextSeq (greatestSequence walk.found)
            dropped := (mountOffers (recordOffers walk.found admitted) s).mount.report.dropped
            withheld := (mountOffers (recordOffers walk.found admitted) s).mount.report.withheld }⟩ } := by
  obtain ⟨repair, dropped, withheld, hoffers⟩ := mountOffers_exists (recordOffers walk.found admitted) s
  unfold finishRecords
  dsimp only
  rw [hwalk, hadmitted, hoffers]

/-- Without the auto-repair-off mark nothing is withheld (R104). -/
theorem withheld_mountOffers (es : List RepairEntry) {s : State} (hon : autoRepairOff s = false) :
    (mountOffers es s).mount.report.withheld = s.mount.report.withheld := by
  induction es generalizing s with
  | nil => rfl
  | cons e es ih =>
    have hstep : autoRepairOff (mountOffer s e) = false ∧
        (mountOffer s e).mount.report.withheld = s.mount.report.withheld := by
      simp only [mountOffer, hon, Bool.false_eq_true, if_false]
      exact ⟨hon, trivial⟩
    exact (ih hstep.1).trans hstep.2

/-- Settles O20: the walk, the winners, the stale records, the offers and the report. -/
theorem mountRecordsChoosesWinners : Obligations.MountRecordsChoosesWinners := by
  unfold Obligations.MountRecordsChoosesWinners
  refine ⟨fun s hdevice hpower hrst hphase => ?_, classifyRecord_spec⟩
  have hexec : exec .mountRecords s = .next (finishRecords s) := by
    change execMountRecords s = _
    rw [execMountRecords, mountDue_eq_true hdevice hpower hrst hphase, if_pos rfl]
  obtain ⟨starts, hwalk⟩ := walkRecords_ok s.array Config.recordWords Config.recordStart none (by decide) (by decide)
  change WalkOk s.array Config.recordStart none (recordWalk s.array) starts at hwalk
  generalize hw : recordWalk s.array = walk at hwalk
  generalize hadm : admitWinners (winners walk.found) = admitted
  have hin : ∀ r ∈ admitted, r ∈ winners walk.found := fun r hr => mem_admitWinners (hadm ▸ hr)
  have hseq : walk.found.Pairwise (fun x y => x.seq < y.seq) := hwalk.order.imp fun hab => hab.2
  have hstale := stale_eq hwalk.order hin
  have hcompeting : competing walk.found =
      walk.found.filter (fun r => decide (r.cls = .candidate ∨ r.cls = .damaged)) :=
    List.filter_congr fun r _ => competes_eq r.cls
  have hoffers : recordOffers walk.found admitted = walk.found.filterMap (fun r =>
      if r ∈ walk.found.filter (isStale admitted) then some ⟨.retire, r.location + 4 + r.header.w⟩
      else if r ∈ admitted ∧ r.sound = false then some ⟨.touchUp, r.location + 3 + r.header.w⟩ else none) := by
    refine List.filterMap_congr fun r hr => ?_
    simp only [recordOffer, List.mem_filter, hr, true_and, isAdmitted_iff hwalk.order hin hr, retireIndex, commitIndex]
  have htable : keyTableOf walk.found admitted = admitted.map (fun x =>
      ⟨x.header.key, x, (walk.found.filter (isStale admitted)).filter (fun r => r.header.key == x.header.key)⟩) := by
    refine List.map_congr_left fun x _ => ?_
    rw [List.filter_filter]
    simp only [Bool.and_comm]
  have hfirst : ∀ e ∈ recordOffers walk.found admitted, 4134 ≤ e.word :=
    recordStart_le_recordOffers fun r hr => (hwalk.lower r hr).1
  have hfinish := finishRecords_eq s hw hadm
  have hreport := congrArg (fun t => t.mount.report) hfinish
  refine ⟨starts, walk.stop, walk.found, competing walk.found, winners walk.found, admitted,
    walk.found.filter (isStale admitted), recordOffers walk.found admitted,
    mountNextSeq (greatestSequence walk.found), (mountOffers (recordOffers walk.found admitted) s).repair,
    (finishRecords s).mount.report, ?exec, hwalk.first, fun i h hi => ?steps, hwalk.stop, hwalk.locations,
    fun r hr => ?reads, fun r hr => ?head, fun i x y hx hy => ?next, hcompeting, winners_eq hseq, hadm.symm,
    hstale.symm, hoffers, fun hnone => ?none, fun r hlast hmax => ?some, ?report, fun hoff => ?withheld,
    fun hon => ?offered⟩
  case exec =>
    rw [hexec]
    refine congrArg Host.Outcome.next (hfinish.trans ?_)
    rw [← htable, ← greatestSequence_eq hseq, hreport]
  case steps =>
    obtain ⟨hlt, hword, hnext⟩ := hwalk.steps i h hi
    refine ⟨hlt, hword, hnext.trans (congrArg some ?_)⟩
    unfold recordLength spanLength
    cases spanHeader s.array h with
    | none => rfl
    | some hdr => exact (Nat.add_assoc h 5 hdr.w).symm
  case reads =>
    obtain ⟨hspan, hcls, hsound⟩ := hwalk.reads r hr
    refine ⟨hspan, hcls, ?_⟩
    rw [hsound, isSoundCommit, commitIndex, beq_eq_decide]
  case head => rw [hwalk.head r hr]; rfl
  case next => rw [hwalk.next i x y hx hy]; rfl
  case none => rw [hnone]; rfl
  case some =>
    rw [greatestSequence_eq hseq, hlast]
    exact if_pos hmax
  case report =>
    rw [hreport]
    simp only [MountReport.mk.injEq, true_and, and_true]
    exact ⟨rfl, hwalk.torn, rfl, List.countP_eq_length_filter .., rfl, rfl⟩
  case withheld =>
    rw [hreport, mountOffers_withheld _ hoff]
    exact ⟨rfl, rfl, rfl⟩
  case offered =>
    refine ⟨?_, fun hlen hlow => ?_⟩
    · rw [hreport]; exact withheld_mountOffers _ hon
    · rw [hreport, mountOffers_offered _ hon hlen (fun e he x hx => ?_) (pairwise_recordOffers hwalk.order)]
      · exact ⟨rfl, rfl⟩
      · have := hfirst e he
        have := hlow x hx
        omega

end Sys2Proof.Machine
end

section
/-! What a command can do: every state a command leaves is one of those listed by `Happens`. The proofs about every step
are case splits on this list. -/

namespace Sys2Proof.Machine

/-! ### The parameters of a job lie in their ranges (R23, R174) -/

theorem leNat_lt (bs : List Byte) : leNat bs < 256 ^ bs.length := by
  induction bs with
  | nil => simp [leNat]
  | cons b bs ih =>
    have hb := b.isLt
    simp only [leNat, List.length_cons, Nat.pow_succ]
    omega

/-- A parser of job parameters gives jobs in range only. -/
def ParsesInRange (parse : List Byte → Option JobKind) : Prop :=
  ∀ ps k, parse ps = some k → kindInRange k = true

theorem parseKey_range {ps : List Byte} {key : Nat} (h : parseKey ps = some key) : 1 ≤ key ∧ key ≤ 4094 := by
  unfold parseKey at h
  split at h
  · dsimp only at h
    split at h
    · next hr => cases h; exact hr
    · cases h
  · cases h

theorem expectedOf_range {present : Byte} {b0 b1 b2 b3 : Byte} {expected : Option Nat}
    (h : expectedOf present [b0, b1, b2, b3] = some expected) : expectedInRange expected = true := by
  obtain ⟨on, -, rfl⟩ := Option.map_eq_some_iff.1 h
  cases on
  · rfl
  · have hlt : leNat [b0, b1, b2, b3] < 4294967296 := by simpa using leNat_lt [b0, b1, b2, b3]
    simpa [expectedInRange] using hlt

theorem targetOf_range {b : Byte} {target : PolicyTarget} (h : targetOf b = some target) :
    targetInRange target = true := by
  unfold targetOf at h
  split at h
  · next hg => cases h; simpa [targetInRange] using hg
  · split at h
    · next hg hc =>
      cases h
      simp only [targetInRange, decide_eq_true_eq]
      omega
    · cases h

theorem parseAppend_range : ParsesInRange parseAppend := by
  intro ps k h
  unfold parseAppend at h
  split at h
  · split at h
    · next key expected hkey hexpected =>
      split at h
      · next hlen =>
        cases h
        obtain ⟨h1, h2⟩ := parseKey_range hkey
        simp [kindInRange, h1, h2, expectedOf_range hexpected, hlen]
      · cases h
    · cases h
  · cases h

theorem parseDelete_range : ParsesInRange parseDelete := by
  intro ps k h
  unfold parseDelete at h
  split at h
  · split at h
    · next key expected hkey hexpected =>
      cases h
      obtain ⟨h1, h2⟩ := parseKey_range hkey
      simp [kindInRange, h1, h2, expectedOf_range hexpected]
    · cases h
  · cases h

theorem parseCountAdvance_range : ParsesInRange parseCountAdvance := by
  intro ps k h
  unfold parseCountAdvance at h
  split at h
  · next c n0 n1 =>
    dsimp only at h
    split at h
    · next hr =>
      cases h
      have hlt : leNat [n0, n1] < 65536 := by simpa using leNat_lt [n0, n1]
      obtain ⟨hc, hn⟩ := hr
      have hle : leNat [n0, n1] ≤ 65535 := by omega
      simp [kindInRange, hc, hn, hle]
    · cases h
  · cases h

theorem parseCountRaise_range : ParsesInRange parseCountRaise := by
  intro ps k h
  unfold parseCountRaise at h
  split at h
  · next c v0 v1 v2 =>
    split at h
    · next hc =>
      cases h
      have hlt : leNat [v0, v1, v2] < 16777216 := by simpa using leNat_lt [v0, v1, v2]
      have hle : leNat [v0, v1, v2] ≤ 16777215 := by omega
      simp [kindInRange, hc, hle]
    · cases h
  · cases h

theorem parseRestrict_range : ParsesInRange parseRestrict := by
  intro ps k h
  unfold parseRestrict at h
  split at h
  · split at h
    · next target htarget =>
      split at h
      · next hmarks =>
        cases h
        obtain ⟨h7, hne⟩ := hmarks
        rw [kindInRange, targetOf_range htarget, h7]
        simpa using hne
      · cases h
    · cases h
  · cases h

theorem toNat_lt_of_extract (b : Byte) (h : b.extractLsb' 5 3 = 0#3) : b.toNat < 32 := by
  have hv : (b.extractLsb' 5 3).toNat = 0 := by rw [h]; rfl
  rw [BitVec.extractLsb'_toNat, Nat.shiftRight_eq_div_pow] at hv
  have hb := b.isLt
  omega

theorem parseSetOption_range : ParsesInRange parseSetOption := by
  intro ps k h
  unfold parseSetOption at h
  split at h
  · split at h
    · next hmarks =>
      cases h
      obtain ⟨hhigh, hne⟩ := hmarks
      simp [kindInRange, toNat_lt_of_extract _ hhigh, hne]
    · cases h
  · cases h

theorem parseClose_range : ParsesInRange parseClose := by
  intro ps k h
  unfold parseClose at h
  split at h
  · cases h; rfl
  · cases h

/-! ### What a taken frame's command can do beside answering (R22, R131, R143, R144, R150, R164, R166) -/

/-- `s` is the state a taken frame's command starts from, at port `p` of a READY part. -/
inductive Handled (p : Port) (s : State) : State → Prop
  | reading (tag : Byte) (key : Nat) :
      Handled p s (enterClaim (.reader p) (s.setPort p { s.port p with slot := .working ⟨tag, key⟩, reply := none }))
  | subscribed (tag : Byte) (x : Subscription) (hnew : x ∉ (s.port p).subs) (hroom : (s.port p).subs.length < 32) :
      Handled p s
        (answer p (commandCode .subscribe) tag .ok []
          (s.setPort p { s.port p with subs := (s.port p).subs ++ [x] }))
  | unsubscribed (tag : Byte) (x : Subscription) :
      Handled p s
        (answer p (commandCode .unsubscribe) tag .ok []
          (s.setPort p { s.port p with subs := (s.port p).subs.filter (fun y => y ≠ x) }))
  | masked (tag : Byte) (m : BitVec 6) :
      Handled p s
        (answer p (commandCode .setAlertMask) tag .ok [] (judgeLevel p (s.setPort p { s.port p with mask := m })))
  | emptied (tag : Byte) :
      Handled p s
        (answer p (commandCode .portReset) tag .ok [] (orphanPort p (s.setPort p (resetPortState (s.port p)))))
  | accepted (cmd : Command) (tag : Byte) (k : JobKind) (hkind : kindInRange k = true)
      (hquota : quotaReached (s.port p) = false) (hroom : s.jobs.length < 8) :
      Handled p s (answer p (commandCode cmd) tag .accepted [] (acceptJob p tag k s))
  | auditing (tag : Byte) (touchUp : Bool) (hidle : s.audit.running = false)
      (hquota : quotaReached (s.port p) = false) :
      Handled p s
        (startAudit p tag touchUp
          (answer p (commandCode .audit) tag .accepted []
            (s.setPort p { s.port p with outstanding := (s.port p).outstanding + 1 })))

/-- A taken frame's command answers, or at a READY part does one of the things listed. -/
def Answers (p : Port) (s t : State) : Prop :=
  (∃ cmd tag code body, t = answer p cmd tag code body s) ∨ (s.device = .ready ∧ Handled p s t)

theorem Answers.answer (p : Port) (cmd tag : Byte) (code : Code) (body : List Byte) (s : State) :
    Answers p s (answer p cmd tag code body s) := .inl ⟨cmd, tag, code, body, rfl⟩

theorem device_ready_of_not_mounting {s : State} (h : s.device ≠ .mounting) : s.device = .ready := by
  cases hd : s.device with
  | mounting => exact absurd hd h
  | ready => rfl

theorem acceptanceRefusal_none {s : State} {p : Port} {k : JobKind} (h : acceptanceRefusal s p (some k) = none) :
    s.device = .ready ∧ quotaReached (s.port p) = false ∧ s.jobs.length < 8 := by
  unfold acceptanceRefusal at h
  split at h
  · cases h
  · next hdevice =>
    dsimp only at h
    split at h
    · cases h
    · cases h
    · split at h
      · cases h
      · next hquota =>
        split at h
        · cases h
        · next hqueue =>
          exact ⟨device_ready_of_not_mounting hdevice, by simpa using hquota, by simpa [Config.queueMax] using hqueue⟩

theorem answers_job (cmd : Command) {parse : List Byte → Option JobKind} (hparse : ParsesInRange parse) (p : Port)
    (tag : Byte) (params : List Byte) (s : State) : Answers p s (handleJob cmd parse p tag params s) := by
  unfold handleJob
  split
  · exact .answer ..
  · next hnone hk =>
    rw [hk] at hnone
    obtain ⟨hready, hquota, hroom⟩ := acceptanceRefusal_none hnone
    exact .inr ⟨hready, .accepted cmd tag _ (hparse _ _ hk) hquota hroom⟩
  · exact .answer ..

theorem answers_read (p : Port) (tag : Byte) (params : List Byte) (s : State) :
    Answers p s (handleRead p tag params s) := by
  unfold handleRead
  split
  · exact .answer ..
  · next hdevice =>
    split
    · exact .answer ..
    · exact .inr ⟨device_ready_of_not_mounting hdevice, .reading tag _⟩

theorem answers_subscribe (p : Port) (tag : Byte) (params : List Byte) (s : State) :
    Answers p s (handleSubscribe p tag params s) := by
  unfold handleSubscribe
  dsimp only
  split
  · exact .answer ..
  · next hdevice =>
    split
    · exact .answer ..
    · split
      · exact .answer ..
      · split
        · exact .answer ..
        · next hnew =>
          split
          · exact .answer ..
          · next hroom =>
            exact .inr ⟨device_ready_of_not_mounting hdevice, .subscribed tag _ hnew (Nat.lt_of_not_le hroom)⟩

theorem answers_unsubscribe (p : Port) (tag : Byte) (params : List Byte) (s : State) :
    Answers p s (handleUnsubscribe p tag params s) := by
  unfold handleUnsubscribe
  dsimp only
  split
  · exact .answer ..
  · next hdevice =>
    split
    · exact .answer ..
    · split
      · exact .inr ⟨device_ready_of_not_mounting hdevice, .unsubscribed tag _⟩
      · exact .answer ..

theorem answers_setAlertMask (p : Port) (tag : Byte) (params : List Byte) (s : State) :
    Answers p s (handleSetAlertMask p tag params s) := by
  unfold handleSetAlertMask
  dsimp only
  split
  · exact .answer ..
  · next hdevice =>
    split
    · exact .answer ..
    · exact .inr ⟨device_ready_of_not_mounting hdevice, .masked tag _⟩

theorem answers_portReset (p : Port) (tag : Byte) (params : List Byte) (s : State) :
    Answers p s (handlePortReset p tag params s) := by
  unfold handlePortReset
  dsimp only
  split
  · exact .answer ..
  · next hdevice =>
    split
    · exact .answer ..
    · exact .inr ⟨device_ready_of_not_mounting hdevice, .emptied tag⟩

theorem answers_audit (p : Port) (tag : Byte) (params : List Byte) (s : State) :
    Answers p s (handleAudit p tag params s) := by
  unfold handleAudit
  dsimp only
  split
  · exact .answer ..
  · next hdevice =>
    split
    · exact .answer ..
    · split
      · exact .answer ..
      · next hidle =>
        split
        · exact .answer ..
        · next hquota =>
          exact .inr ⟨device_ready_of_not_mounting hdevice, .auditing tag _ (by simpa using hidle) (by simpa using hquota)⟩

/-- Whatever its code, a taken frame's command answers or does one of the things listed. -/
theorem answers_handleCode (code : Byte) (p : Port) (tag : Byte) (params : List Byte) (s : State) :
    Answers p s (handleCode code p tag params s) := by
  unfold handleCode
  cases commandOf code with
  | none => exact .answer ..
  | some cmd =>
    cases cmd with
    | read => exact answers_read ..
    | subscribe => exact answers_subscribe ..
    | unsubscribe => exact answers_unsubscribe ..
    | setAlertMask => exact answers_setAlertMask ..
    | portReset => exact answers_portReset ..
    | append => exact answers_job _ parseAppend_range ..
    | delete => exact answers_job _ parseDelete_range ..
    | countAdvance => exact answers_job _ parseCountAdvance_range ..
    | countRaise => exact answers_job _ parseCountRaise_range ..
    | restrict => exact answers_job _ parseRestrict_range ..
    | setOption => exact answers_job _ parseSetOption_range ..
    | close => exact answers_job _ parseClose_range ..
    | audit => exact answers_audit ..
    | info | list | countRead | policyRead | status | identify | auditReport => exact .answer ..

/-! ### What a command can do -/

/-- What a command leaves of `s`. -/
inductive Happens (s : State) : State → Prop
  | nothing : Happens s s
  | reset (cut : PulseEffect) (powered : Bool) :
      Happens s { afterReset (pulsedArray s cut) s with powered := powered }
  | released (adr : BitVec 2) (hlow : s.rstLow = true) :
      Happens s { s with powered := true, rstLow := false, portCAdr := adr }
  | options (hdue : mountDue s .options = true) : Happens s (finishOptions s)
  | strips (hdue : mountDue s .strips = true) : Happens s (finishStrips s)
  | records (hdue : mountDue s .records = true) : Happens s (finishRecords s)
  | sorted (hdue : mountDue s .sort = true) : Happens s (finishSort s)
  | rise : Happens s { s with pgmEn := true }
  | fall (cut : PulseEffect) :
      Happens s { s with pgmEn := false, array := pulsedArray s cut, engine := markCut s.engine }
  | truncated (p : Port) : Happens s (setTruncated p (noteSendFrame p s))
  | discarded (p : Port) : Happens s (setDiscard p (noteSendFrame p s))
  | answered (p : Port) (hfree : slotFree (s.port p) = true) (cmd tag : Byte) (code : Code) (body : List Byte) :
      Happens s (answer p cmd tag code body (s.taken p))
  | handled (p : Port) (hfree : slotFree (s.port p) = true) (hready : s.device = .ready) {t : State}
      (h : Handled p (s.taken p) t) : Happens s t
  | fetched (sel : Selector) (p : Port) : Happens s (fetchEffect sel p s)
  | selected (sel : Selector) : Happens s { s with lastSelector := sel }
  | jobTaken (j : Job) (rest : List Job) (hhead : HeadJob s j rest) : Happens s (startChecks j (checking s j rest))
  | repairTaken (e : RepairEntry) (hready : s.device = .ready) (hidle : s.engine.state = .idle)
      (hmem : e ∈ s.repair.entries) : Happens s (takeRepair e s)
  | grantedEngine (q : Sequence) (hready : s.device = .ready) (hfree : s.arbiter.holder = .none)
      (hdue : grantee s.arbiter = some .engine) (hseq : s.engine.seq = some q) (hword : q.word < 16384) :
      Happens s (grantEngine q { s with arbiter := recordGrant .engine s.arbiter })
  | grantedIdle (hready : s.device = .ready) (hfree : s.arbiter.holder = .none)
      (hdue : grantee s.arbiter = some .engine) (hseq : s.engine.seq = none) :
      Happens s { s with arbiter := recordGrant .engine s.arbiter }
  | grantedReader (p : Port) (hready : s.device = .ready) (hfree : s.arbiter.holder = .none)
      (hdue : grantee s.arbiter = some (.reader p)) :
      Happens s (grantReader p { s with arbiter := recordGrant (.reader p) s.arbiter })
  | grantedAudit (hready : s.device = .ready) (hfree : s.arbiter.holder = .none)
      (hdue : grantee s.arbiter = some .audit) :
      Happens s { s with arbiter := { recordGrant .audit s.arbiter with holder := .audit } }
  | pulsed (q : Sequence) (e : PulseEffect) (hrun : runningSequence s = some q) (hword : q.word < 16384) :
      Happens s (judgePulse q { s with array := pulsedArray s e })
  | pulseEnded (p : Port) (hactive : (s.port p).pulseActive = true) :
      Happens s (s.setPort p { s.port p with pulseActive := false, lineLow := false })
  | burstEnded (p : Port) (e : DirEntry) (r : ReadInHand) (hheld : s.arbiter.holder = .reader p e)
      (hslot : (s.port p).slot = .working r) (body : List Byte) :
      Happens s (answer p (commandCode .read) r.tag .data body (releaseArray s))
  | burstLost (p : Port) (e : DirEntry) (hheld : s.arbiter.holder = .reader p e)
      (hslot : slotFree (s.port p) = true) : Happens s (releaseArray s)
  | audited (hheld : s.arbiter.holder = .audit) (hexists : auditUnitExists s.audit = true) :
      Happens s (endAuditUnit s)

/-- The end of a SEND-FRAME transaction at a port. -/
theorem happens_receive (p : Port) (bytes : List Byte) (s : State) : Happens s (receive p bytes handleCode s) := by
  unfold receive
  split
  · next code tag len rest =>
    split
    · exact .truncated p
    · cases hfree : slotFree (s.port p) with
      | false =>
        rw [takeComplete_working (by rwa [slotFree_noteSendFrame])]
        exact .discarded p
      | true =>
        have hfree' : slotFree ((noteSendFrame p s).port p) = true := by rwa [slotFree_noteSendFrame]
        cases hform : frameFault code tag len rest with
        | true =>
          have htake : takeComplete p code tag len rest (handleCode code) (noteSendFrame p s) =
              answer p code tag .frameError [] (s.taken p) := by
            unfold slotFree at hfree'
            cases hslot : ((noteSendFrame p s).port p).slot with
            | empty => simp [takeComplete, takeComplete.judgeForm, hslot, hform, State.taken]
            | replyReady => simp [takeComplete, takeComplete.judgeForm, hslot, hform, State.taken]
            | working r => simp [hslot] at hfree'
          rw [htake]
          exact .answered p hfree ..
        | false =>
          rw [takeComplete_good hfree' hform]
          rcases answers_handleCode code p tag (rest.take len.toNat) (s.taken p) with
            ⟨cmd, tag', code', body, h⟩ | ⟨hready, h⟩
          · have h' : handleCode code p tag (rest.take len.toNat) (dropReply p (noteSendFrame p s)) =
                answer p cmd tag' code' body (s.taken p) := h
            rw [h']
            exact .answered p hfree ..
          · exact .handled p hfree (by simpa using hready) h
  · exact .truncated p

theorem happens_onBus {s : State} (bus : Bus) {act : Port → State → State} (h : ∀ p, Happens s (act p s)) :
    Happens s (onBus bus s act) := by
  unfold onBus
  split
  · exact .nothing
  · exact h _

theorem happens_sendFrame (bus : Bus) (bytes : List Byte) (s : State) :
    Happens s (sendFrame bus bytes handleCode s) :=
  happens_onBus bus fun p => happens_receive p bytes s

theorem happens_sendCommand (cmd : Command) (bus : Bus) (f : Frame) (s : State) :
    Happens s (sendCommand cmd bus f (handleCommand cmd) s) := by
  rw [sendCommand_eq_sendFrame]
  exact happens_sendFrame ..

theorem happens_fetchOn (bus : Bus) (sel : Selector) (s : State) : Happens s (fetchOn bus sel s) :=
  happens_onBus bus fun p => .fetched _ p

theorem happens_writeSelector (bytes : List Byte) (s : State) : Happens s (writeSelector bytes s) := by
  unfold writeSelector
  split
  · exact .nothing
  · split
    · exact .nothing
    · exact happens_receive ..
    · exact .selected .fetchReply
    · exact .selected .fetchResult
    · exact .selected .fetchNotice
    · exact .selected .portStatus

theorem happens_ite {s t u : State} {c : Prop} [Decidable c] (ht : c → Happens s t) (hu : Happens s u) :
    Happens s (if c then t else u) := by
  split
  · next h => exact ht h
  · exact hu

theorem happens_arrayGrant {s t : State} (h : execArrayGrant s = .next t) : Happens s t := by
  unfold execArrayGrant at h
  split at h
  · next hdue =>
    obtain ⟨hready, hfree⟩ := hdue
    split at h
    · cases h; exact .nothing
    · next who hwho =>
      dsimp only at h
      split at h
      · split at h
        · next hseq => cases h; exact .grantedIdle hready hfree hwho hseq
        · next q hseq =>
          split at h
          · next hword => cases h; exact .grantedEngine q hready hfree hwho hseq hword
          · cases h
      · cases h; exact .grantedReader _ hready hfree hwho
      · cases h; exact .grantedAudit hready hfree hwho
  · cases h; exact .nothing

theorem happens_pulseDone {e : PulseEffect} {s t : State} (h : execPulseDone e s = .next t) : Happens s t := by
  unfold execPulseDone at h
  split at h
  · cases h; exact .nothing
  · next q hrun =>
    split at h
    · next hword => cases h; exact .pulsed q e hrun hword
    · cases h

theorem happens_readBurstEnd {s t : State} (h : execReadBurstEnd s = .next t) : Happens s t := by
  unfold execReadBurstEnd at h
  split at h
  · next p e hheld =>
    split at h
    · split at h
      · next r hslot => cases h; exact .burstEnded p e r hheld hslot _
      · next hslot => cases h; exact .burstLost p e hheld (by simp [slotFree, hslot])
      · next hslot => cases h; exact .burstLost p e hheld (by simp [slotFree, hslot])
    · cases h
  · cases h; exact .nothing
  · cases h; exact .nothing
  · cases h; exact .nothing

theorem happens_auditUnitEnd {s t : State} (h : execAuditUnitEnd s = .next t) : Happens s t := by
  unfold execAuditUnitEnd at h
  split at h
  · next hheld =>
    split at h
    · next hexists => cases h; exact .audited hheld hexists
    · cases h
  · cases h; exact .nothing

theorem happens_engineTakeJob {s t : State} (h : execEngineTakeJob s = .next t) : Happens s t := by
  unfold execEngineTakeJob at h
  split at h
  · next hdue =>
    split at h
    · cases h; exact .nothing
    · next j rest hjobs => cases h; exact .jobTaken j rest ⟨hdue.1, hdue.2, hjobs⟩
  · cases h; exact .nothing

theorem happens_engineTakeRepair {s t : State} (h : execEngineTakeRepair s = .next t) : Happens s t := by
  unfold execEngineTakeRepair at h
  split at h
  · next hdue =>
    split at h
    · cases h; exact .nothing
    · next e rest hlist => cases h; exact .repairTaken e hdue.1 hdue.2.1 (by rw [hlist]; exact List.mem_cons_self ..)
  · cases h; exact .nothing

/-- Every state a command leaves is one of those listed. -/
theorem happens_of_exec {c : Instr} {s t : State} (h : exec c s = .next t) : Happens s t := by
  cases c with
  | deviceReset cut => cases h; exact .reset cut true
  | powerLoss cut => cases h; exact .reset cut false
  | rstRelease adr => cases h; exact happens_ite (.released adr) .nothing
  | mountOptions => cases h; exact happens_ite .options .nothing
  | mountStrips => cases h; exact happens_ite .strips .nothing
  | mountRecords => cases h; exact happens_ite .records .nothing
  | mountSort => cases h; exact happens_ite .sorted .nothing
  | pgmEnRise => cases h; exact .rise
  | pgmEnFall cut => cases h; exact .fall cut
  | incompleteFrame bus bytes => cases h; exact happens_sendFrame ..
  | unknownCommand bus code f => cases h; exact happens_sendFrame ..
  | frameDiscard bus bytes => cases h; exact happens_sendFrame ..
  | read bus f => cases h; exact happens_sendCommand .read bus f s
  | info bus f => cases h; exact happens_sendCommand .info bus f s
  | list bus f => cases h; exact happens_sendCommand .list bus f s
  | countRead bus f => cases h; exact happens_sendCommand .countRead bus f s
  | policyRead bus f => cases h; exact happens_sendCommand .policyRead bus f s
  | status bus f => cases h; exact happens_sendCommand .status bus f s
  | identify bus f => cases h; exact happens_sendCommand .identify bus f s
  | auditReport bus f => cases h; exact happens_sendCommand .auditReport bus f s
  | subscribe bus f => cases h; exact happens_sendCommand .subscribe bus f s
  | unsubscribe bus f => cases h; exact happens_sendCommand .unsubscribe bus f s
  | setAlertMask bus f => cases h; exact happens_sendCommand .setAlertMask bus f s
  | portReset bus f => cases h; exact happens_sendCommand .portReset bus f s
  | append bus f => cases h; exact happens_sendCommand .append bus f s
  | delete bus f => cases h; exact happens_sendCommand .delete bus f s
  | countAdvance bus f => cases h; exact happens_sendCommand .countAdvance bus f s
  | countRaise bus f => cases h; exact happens_sendCommand .countRaise bus f s
  | restrict bus f => cases h; exact happens_sendCommand .restrict bus f s
  | setOption bus f => cases h; exact happens_sendCommand .setOption bus f s
  | close bus f => cases h; exact happens_sendCommand .close bus f s
  | audit bus f => cases h; exact happens_sendCommand .audit bus f s
  | fetchReply bus => cases h; exact happens_fetchOn ..
  | fetchResult bus => cases h; exact happens_fetchOn ..
  | fetchNotice bus => cases h; exact happens_fetchOn ..
  | portStatus bus => cases h; exact happens_fetchOn ..
  | lastSelectorWrite addr bytes => cases h; exact happens_onBus _ fun _ => happens_writeSelector bytes s
  | engineTakeJob => exact happens_engineTakeJob h
  | engineTakeRepair => exact happens_engineTakeRepair h
  | arrayGrant => exact happens_arrayGrant h
  | pulseDone e => exact happens_pulseDone h
  | alertPulseEnd p => cases h; exact happens_ite (.pulseEnded p) .nothing
  | readBurstEnd => exact happens_readBurstEnd h
  | auditUnitEnd => exact happens_auditUnitEnd h

/-- What is kept by all a command can do, and the queue does not bear on, every step keeps. -/
theorem step_happens {P : State → Prop} (hqueue : ∀ s rest, P s → P { s with pending := rest })
    (hkept : ∀ s t, P s → Happens s t → P t) {s t : State} (hs : P s) (h : step s = .next t) : P t :=
  step_keeps hqueue (fun _ s t hs he => hkept s t hs (happens_of_exec he)) hs h

/-! ### Every command completes (R6) -/

/-- The engine's sequence is of a word of the array. -/
theorem word_lt_of_seq {s : State} (h : s.engine.seq.all (fun q => decide (q.word < 16384)) = true) {q : Sequence}
    (hq : s.engine.seq = some q) : q.word < 16384 := by
  simpa [hq] using h

theorem seq_of_runningSequence {s : State} {q : Sequence} (h : runningSequence s = some q) :
    s.engine.state = .programming ∧ s.engine.seq = some q := by
  unfold runningSequence at h
  split at h
  · next hp => exact ⟨hp, h⟩
  · cases h

theorem arrayGrant_completes {s : State} (hseq : s.engine.seq.all (fun q => decide (q.word < 16384)) = true) :
    ∃ t, execArrayGrant s = .next t := by
  unfold execArrayGrant
  split
  · split
    · exact ⟨_, rfl⟩
    · dsimp only
      split
      · split
        · exact ⟨_, rfl⟩
        · next q hq =>
          rw [if_pos (word_lt_of_seq hseq hq)]
          exact ⟨_, rfl⟩
      · exact ⟨_, rfl⟩
      · exact ⟨_, rfl⟩
  · exact ⟨_, rfl⟩

theorem pulseDone_completes {s : State} (hseq : s.engine.seq.all (fun q => decide (q.word < 16384)) = true)
    (e : PulseEffect) : ∃ t, execPulseDone e s = .next t := by
  unfold execPulseDone
  split
  · exact ⟨_, rfl⟩
  · next q hrun =>
    rw [if_pos (word_lt_of_seq hseq (seq_of_runningSequence hrun).2)]
    exact ⟨_, rfl⟩

theorem readBurstEnd_completes {s : State} (hreads : readsInArray s = true) : ∃ t, execReadBurstEnd s = .next t := by
  unfold execReadBurstEnd
  split
  · next p e hheld =>
    have hin : e.location + 4 + e.w < 16384 := by
      have h := (Bool.and_eq_true_iff.1 hreads).1
      rw [hheld] at h
      simpa [spanInArray] using h
    rw [if_pos (by unfold Config.arrayWords; omega)]
    split <;> exact ⟨_, rfl⟩
  · exact ⟨_, rfl⟩
  · exact ⟨_, rfl⟩
  · exact ⟨_, rfl⟩

/-- The bounds of a running audit (R6, R167). -/
theorem audit_bounds {s : State} (hreads : readsInArray s = true) (hrun : s.audit.running = true) :
    s.audit.capturedAppend.getD 0 ≤ 16384 ∧ s.audit.capturedCursor.getD 0 ≤ 512 ∧
      (s.audit.stage = .records → s.audit.position < s.audit.capturedAppend.getD 0) ∧
      (s.audit.stage = .strips → s.audit.position < s.audit.capturedCursor.getD 0) := by
  have h := (Bool.and_eq_true_iff.1 hreads).2
  rw [hrun] at h
  simp only [Bool.not_true, Bool.false_or, Bool.and_eq_true, decide_eq_true_eq] at h
  obtain ⟨⟨happend, hcursor⟩, hposition⟩ := h
  refine ⟨happend, hcursor, fun hs => ?_, fun hs => ?_⟩
  · rw [hs] at hposition; simpa using hposition
  · rw [hs] at hposition; simpa using hposition

theorem auditUnitExists_of_reads {s : State} (hreads : readsInArray s = true) (hrun : s.audit.running = true) :
    auditUnitExists s.audit = true := by
  obtain ⟨happend, hcursor, hrecords, hstrips⟩ := audit_bounds hreads hrun
  unfold auditUnitExists
  cases hs : s.audit.stage with
  | records =>
    have := hrecords hs
    simp only [Config.arrayWords, decide_eq_true_eq]
    omega
  | strips =>
    have := hstrips hs
    refine decide_eq_true (?_ : 38 + 8 * s.audit.position + 7 < 16384)
    omega

theorem auditUnitEnd_completes {s : State} (hreads : readsInArray s = true) (haudit : AuditOk s) :
    ∃ t, execAuditUnitEnd s = .next t := by
  unfold execAuditUnitEnd
  split
  · next hheld =>
    have hrun : s.audit.running = true := by rw [haudit.1, hheld]; simp
    rw [if_pos (auditUnitExists_of_reads hreads hrun)]
    exact ⟨_, rfl⟩
  · exact ⟨_, rfl⟩

/-- Settles O5: only four commands can meet a word that does not exist, and the invariant's addresses rule it out. -/
theorem everyCommandCompletes : Obligations.EveryCommandCompletes := by
  unfold Obligations.EveryCommandCompletes
  intro c s hinv
  obtain ⟨-, -, ⟨haudit, -, -⟩, -, -, -, -, -, -, -, -, -, -, -, -, -, -, -, -, hseq, -, hreads⟩ := hinv
  cases c
  case arrayGrant => exact arrayGrant_completes hseq
  case pulseDone e => exact pulseDone_completes hseq e
  case readBurstEnd => exact readBurstEnd_completes hreads
  case auditUnitEnd => exact auditUnitEnd_completes hreads haudit
  case engineTakeJob =>
    change ∃ t, execEngineTakeJob s = .next t
    unfold execEngineTakeJob
    split
    · split <;> exact ⟨_, rfl⟩
    · exact ⟨_, rfl⟩
  case engineTakeRepair =>
    change ∃ t, execEngineTakeRepair s = .next t
    unfold execEngineTakeRepair
    split
    · split <;> exact ⟨_, rfl⟩
    · exact ⟨_, rfl⟩
  all_goals exact ⟨_, rfl⟩

end Sys2Proof.Machine
end

section
/-! Commands that leave the blocks beside the ports alone; and the array: only a pulse changes it, upward, and none does
while PGM_EN is low (law L1; R3, R12). -/

namespace Sys2Proof.Machine

/-! ### Every step is something that happens -/

/-- A step leaves what some command can leave of the state with the rest of its queue. -/
theorem happens_of_step {s t : State} (h : step s = .next t) : ∃ rest, Happens { s with pending := rest } t := by
  rcases step_cases h with ⟨-, rfl⟩ | ⟨c, rest, -, he⟩
  · exact ⟨t.pending, .nothing⟩
  · exact ⟨rest, happens_of_exec he⟩

/-! ### States that differ in their ports, their bus and their queue alone -/

/-- The blocks that the invariant speaks of, the ports apart, are the same in two states. -/
structure SameCore (s t : State) : Prop where
  array : t.array = s.array
  powered : t.powered = s.powered
  rstLow : t.rstLow = s.rstLow
  pgmEn : t.pgmEn = s.pgmEn
  device : t.device = s.device
  mount : t.mount = s.mount
  policy : t.policy = s.policy
  directory : t.directory = s.directory
  counters : t.counters = s.counters
  log : t.log = s.log
  repair : t.repair = s.repair
  engine : t.engine = s.engine
  jobs : t.jobs = s.jobs
  arbiter : t.arbiter = s.arbiter
  audit : t.audit = s.audit

theorem SameBlocks.core {s t : State} (h : SameBlocks s t) : SameCore s t :=
  ⟨h.array, h.powered, h.rstLow, h.pgmEn, h.device, h.mount, h.policy, h.directory, h.counters, h.log, h.repair,
    h.engine, h.jobs, h.arbiter, h.audit⟩

theorem SameCore.trans {s t u : State} (h : SameCore s t) (k : SameCore t u) : SameCore s u where
  array := k.array.trans h.array
  powered := k.powered.trans h.powered
  rstLow := k.rstLow.trans h.rstLow
  pgmEn := k.pgmEn.trans h.pgmEn
  device := k.device.trans h.device
  mount := k.mount.trans h.mount
  policy := k.policy.trans h.policy
  directory := k.directory.trans h.directory
  counters := k.counters.trans h.counters
  log := k.log.trans h.log
  repair := k.repair.trans h.repair
  engine := k.engine.trans h.engine
  jobs := k.jobs.trans h.jobs
  arbiter := k.arbiter.trans h.arbiter
  audit := k.audit.trans h.audit

/-- In `t` port `p` is `q`, every other port is as in `s`, and so is every block. -/
structure PortAlone (s : State) (p : Port) (q : PortState) (t : State) : Prop where
  core : SameCore s t
  here : t.port p = q
  others : ∀ r, r ≠ p → t.port r = s.port r

/-- A port with its line judged when it is in LEVEL mode (R151). -/
def judged (level : Bool) (q : PortState) : PortState :=
  { q with lineLow := if level = true then workWaiting q else q.lineLow }

namespace PortAlone

variable {s t : State} {p : Port} {q : PortState}

theorem refl (s : State) (p : Port) : PortAlone s p (s.port p) s :=
  ⟨(SameBlocks.refl s).core, rfl, fun _ _ => rfl⟩

theorem setPort (h : PortAlone s p q t) (q' : PortState) : PortAlone s p q' (t.setPort p q') where
  core := h.core.trans (sameBlocks_setPort t p q').core
  here := State.port_setPort_same ..
  others r hr := (State.port_setPort_other _ _ hr).trans (h.others r hr)

/-- The port set by what it was. -/
theorem modify (h : PortAlone s p q t) (g : PortState → PortState) : PortAlone s p (g q) (t.setPort p (g (t.port p))) := by
  rw [h.here]; exact h.setPort _

theorem judge (h : PortAlone s p q t) : PortAlone s p (judged (levelMode s p) q) (judgeLevel p t) := by
  rw [judgeLevel_eq, levelMode_congr h.core.policy, h.here]
  exact h.setPort (judged (levelMode s p) q)

theorem answer (h : PortAlone s p q t) (cmd tag : Byte) (code : Code) (body : List Byte) :
    PortAlone s p { q with slot := .replyReady, reply := some ⟨code, cmd, tag, body⟩ }
      (answer p cmd tag code body t) :=
  h.modify fun q => { q with slot := .replyReady, reply := some ⟨code, cmd, tag, body⟩ }

end PortAlone

/-- A SEND-FRAME transaction touches its port's output alone (R155, R156). -/
theorem portAlone_noteSendFrame (p : Port) (s : State) :
    PortAlone s p { s.port p with output := if p ≠ .c then [] else (s.port p).output } (noteSendFrame p s) where
  core := by cases p <;> exact ⟨rfl, rfl, rfl, rfl, rfl, rfl, rfl, rfl, rfl, rfl, rfl, rfl, rfl, rfl, rfl⟩
  here := by cases p <;> rfl
  others r hr := by cases p <;> cases r <;> first | rfl | exact absurd rfl hr

/-- A taken frame touches its port's output and reply alone (R158). -/
theorem portAlone_taken (p : Port) (s : State) :
    PortAlone s p { s.port p with reply := none, output := if p ≠ .c then [] else (s.port p).output } (s.taken p) :=
  (portAlone_noteSendFrame p s).modify fun q => { q with reply := none }

theorem portAlone_truncated (p : Port) (s : State) :
    PortAlone s p { s.port p with truncated := true, output := if p ≠ .c then [] else (s.port p).output }
      (setTruncated p (noteSendFrame p s)) :=
  (portAlone_noteSendFrame p s).modify fun q => { q with truncated := true }

theorem portAlone_discarded (p : Port) (s : State) :
    PortAlone s p { s.port p with discard := true, output := if p ≠ .c then [] else (s.port p).output }
      (setDiscard p (noteSendFrame p s)) :=
  (portAlone_noteSendFrame p s).modify fun q => { q with discard := true }

/-- What a fetch leaves of its port (R149, R160, R161, R163). -/
inductive FetchLeaves (level : Bool) (q : PortState) : PortState → Prop
  | copied (bytes : List Byte) : FetchLeaves level q { q with output := bytes }
  | flags (bytes : List Byte) : FetchLeaves level q { q with discard := false, truncated := false, output := bytes }
  | reply (bytes : List Byte) (hslot : q.slot = .replyReady) :
      FetchLeaves level q { q with slot := .empty, reply := none, output := bytes }
  | result (r : Result) (rest : List Result) (bytes : List Byte) (hhead : q.results = r :: rest) :
      FetchLeaves level q (judged level { q with results := rest, output := bytes })
  | notice (n : Notice) (rest : List Notice) (bytes : List Byte) (hhead : q.ring = n :: rest) :
      FetchLeaves level q (judged level { q with ring := rest, wrapped := false, output := bytes })

theorem fetchReplyAt_leaves (p : Port) (s : State) :
    ∃ q, FetchLeaves (levelMode s p) (s.port p) q ∧ PortAlone s p q (fetchReplyAt p s) := by
  unfold fetchReplyAt
  split
  · next hslot _ => exact ⟨_, .reply _ hslot, (PortAlone.refl s p).setPort _⟩
  · next hslot hreply =>
    have hq : { s.port p with slot := .empty, output := noneBytes } =
        { s.port p with slot := .empty, reply := none, output := noneBytes } := by
      cases hq : s.port p; rw [hq] at hreply; cases hreply; rfl
    rw [hq]
    exact ⟨_, .reply _ hslot, (PortAlone.refl s p).setPort _⟩
  · exact ⟨_, .copied _, (PortAlone.refl s p).setPort _⟩
  · exact ⟨_, .copied _, (PortAlone.refl s p).setPort _⟩

/-- A fetch touches its port alone. -/
theorem fetchEffect_leaves (sel : Selector) (p : Port) (s : State) :
    ∃ q, FetchLeaves (levelMode s p) (s.port p) q ∧ PortAlone s p q (fetchEffect sel p s) := by
  have hstatus : ∃ q, FetchLeaves (levelMode s p) (s.port p) q ∧ PortAlone s p q (portStatusAt p s) :=
    ⟨_, .flags _, (PortAlone.refl s p).setPort _⟩
  cases sel with
  | portStatus => exact hstatus
  | sendFrame => exact hstatus
  | fetchReply => exact fetchReplyAt_leaves p s
  | fetchResult =>
    change ∃ q, FetchLeaves (levelMode s p) (s.port p) q ∧ PortAlone s p q (fetchResultAt p s)
    unfold fetchResultAt
    split
    · exact ⟨_, .copied _, (PortAlone.refl s p).setPort _⟩
    · next r rest hhead => exact ⟨_, .result r rest _ hhead, ((PortAlone.refl s p).setPort _).judge⟩
  | fetchNotice =>
    change ∃ q, FetchLeaves (levelMode s p) (s.port p) q ∧ PortAlone s p q (fetchNoticeAt p s)
    unfold fetchNoticeAt
    split
    · exact ⟨_, .copied _, (PortAlone.refl s p).setPort _⟩
    · next n rest hhead => exact ⟨_, .notice n rest _ hhead, ((PortAlone.refl s p).setPort _).judge⟩

/-! ### The audit's walk goes on (R167, R168, R170) -/

/-- A unit of `stage` at `position` is left to examine before the captured end (R167). -/
def auditWithin (a : AuditScanner) : AuditStage → Nat → Prop
  | .records, position => position < a.capturedAppend.getD 0
  | .strips, position => position < a.capturedCursor.getD 0

/-- The audit of `s`, its tally at `x`, claims the array for a unit it has left, or completes. -/
inductive AuditGoesOn (s : State) (x : AuditTally) : State → Prop
  | claims (stage : AuditStage) (position : Nat) (hmore : auditWithin s.audit stage position) :
      AuditGoesOn s x (enterClaim .audit (s.walkedTo stage position x))
  | completes (stage : AuditStage) (position : Nat) :
      AuditGoesOn s x (completeAudit (s.walkedTo stage position x))

theorem goesOn_nextStrip (s : State) (position : Nat) (x : AuditTally) :
    AuditGoesOn s x (nextStrip (s.walkedTo .strips position x)) := by
  unfold nextStrip
  split
  · exact .completes .strips position
  · next hmore => exact .claims .strips position (Nat.not_le.1 hmore)

theorem goesOn_continueAudit (s : State) (stage : AuditStage) (position : Nat) (x : AuditTally) :
    AuditGoesOn s x (continueAudit (s.walkedTo stage position x)) := by
  cases stage with
  | strips => exact goesOn_nextStrip s position x
  | records =>
    have hcontinue : continueAudit (s.walkedTo .records position x) =
        if s.audit.capturedAppend.getD 0 ≤ position then nextStrip (s.walkedTo .strips 0 x)
        else enterClaim .audit (s.walkedTo .records position x) := rfl
    rw [hcontinue]
    split
    · exact goesOn_nextStrip s 0 x
    · next hmore => exact .claims .records position (Nat.not_le.1 hmore)

/-- An accepted audit goes on from word 4134, its tally empty (R166). -/
theorem goesOn_startAudit (p : Port) (tag : Byte) (touchUp : Bool) (s : State) :
    AuditGoesOn { s with audit := auditStarted s p tag touchUp .records 4134 } ⟨[], 0, 0, 0, s.repair.entries⟩
      (startAudit p tag touchUp s) :=
  goesOn_continueAudit { s with audit := auditStarted s p tag touchUp .records 4134 } .records 4134
    ⟨[], 0, 0, 0, s.repair.entries⟩

/-- The entries after one finding are those before it and perhaps one of its word (R169). -/
theorem mem_afterFinding {x : AuditTally} {offers : Bool} {f : Finding} {e : RepairEntry}
    (h : e ∈ (x.afterFinding offers f).entries) : e ∈ x.entries ∨ e.word = f.word := by
  unfold AuditTally.afterFinding at h
  dsimp only at h
  split at h
  · rw [offer_eq] at h
    split at h
    · rcases List.mem_append.1 h with h | h
      · exact .inl h
      · exact .inr (by rw [List.mem_singleton.1 h])
    · exact .inl h
  · exact .inl h

/-- A unit compared changes the tally alone, and its new entries are of its words (R168, R169). -/
theorem compareUnit_entries (first count : Nat) (region : Region) (id : Nat) (s : State) :
    ∃ x, compareUnit first count region id s = s.walkedTo s.audit.stage s.audit.position x ∧
      ∀ e ∈ x.entries, e ∈ s.repair.entries ∨ e.word < first + count := by
  have hfold : ∀ (words : List Nat) (x : AuditTally), (∀ i ∈ words, i < first + count) →
      ∃ y, words.foldl (fun t i => makeFinding t ⟨i, region, id⟩) (s.walkedTo s.audit.stage s.audit.position x) =
          s.walkedTo s.audit.stage s.audit.position y ∧
        ∀ e ∈ y.entries, e ∈ x.entries ∨ e.word < first + count := by
    intro words
    induction words with
    | nil => exact fun x _ => ⟨x, rfl, fun e he => .inl he⟩
    | cons i words ih =>
      intro x hwords
      obtain ⟨y, hy, hentries⟩ := ih (x.afterFinding (s.audit.touchUp && mayOffer s ⟨i, region, id⟩) ⟨i, region, id⟩)
        (fun k hk => hwords k (List.mem_cons_of_mem _ hk))
      refine ⟨y, ?_, fun e he => ?_⟩
      · rw [List.foldl_cons, makeFinding_walkedTo s _ _ x rfl]
        exact hy
      · rcases hentries e he with h | h
        · rcases mem_afterFinding h with h | h
          · exact .inl h
          · exact .inr (h ▸ hwords i (List.mem_cons_self ..))
        · exact .inr h
  refine hfold (weakWords s.array first count) s.tally fun i hi => ?_
  obtain ⟨k, hk, rfl⟩ := List.mem_map.1 (List.mem_filter.1 hi).1
  have := List.mem_range.1 hk
  omega

/-- A record compared: its words before the retire word (R168). -/
theorem compareRecord_entries (h : Nat) (s : State) :
    ∃ x, compareRecord h s = s.walkedTo s.audit.stage s.audit.position x ∧
      ∀ e ∈ x.entries, e ∈ s.repair.entries ∨ e.word < h + recordLength s.array h := by
  have hnothing : s = s.walkedTo s.audit.stage s.audit.position s.tally := rfl
  unfold compareRecord
  cases hspan : spanHeader s.array h with
  | none => exact ⟨s.tally, hnothing, fun e he => .inl he⟩
  | some hdr =>
    have hlength : recordLength s.array h = spanLength hdr.w := by simp only [recordLength, hspan]
    dsimp only
    split
    · obtain ⟨x, hx, hentries⟩ := compareUnit_entries h (spanLength hdr.w - 1) .record hdr.key s
      refine ⟨x, hx, fun e he => (hentries e he).imp_right fun hlt => ?_⟩
      omega
    · exact ⟨s.tally, hnothing, fun e he => .inl he⟩

/-- A strip unit: its words are compared when it is CLAIMED, and the walk goes on after it (R167, R168). -/
theorem endStripUnit_entries (s : State) (hstage : s.audit.stage = .strips) :
    ∃ x, endStripUnit s.audit.position s = continueAudit (s.walkedTo .strips (s.audit.position + 1) x) ∧
      ∀ e ∈ x.entries, e ∈ s.repair.entries ∨ e.word < 46 + 8 * s.audit.position := by
  have hstay : setPosition (s.audit.position + 1) s = s.walkedTo .strips (s.audit.position + 1) s.tally := by
    rw [← hstage]; rfl
  cases hcls : classifyStrip s.array s.audit.position with
  | free => exact ⟨s.tally, by simp only [endStripUnit, hcls, hstay], fun e he => .inl he⟩
  | dead => exact ⟨s.tally, by simp only [endStripUnit, hcls, hstay], fun e he => .inl he⟩
  | claimed counter base =>
    obtain ⟨x, hx, hentries⟩ := compareUnit_entries (stripWord s.audit.position 0) 8 .strip counter s
    refine ⟨x, ?_, fun e he => (hentries e he).imp_right fun hlt => ?_⟩
    · rw [hstage] at hx
      simp only [endStripUnit, hcls, hx]
      rfl
    · simp only [stripWord, Config.poolStart] at hlt
      omega

/-- The end of a unit: the walk goes on from it and the array is released; a new repair entry is of a word below the
captured append point, or of the strip (R167 to R170). -/
theorem endAuditUnit_goesOn (s : State) :
    ∃ x t, endAuditUnit s = releaseArray t ∧ AuditGoesOn s x t ∧
      ∀ e ∈ x.entries, e ∈ s.repair.entries ∨ e.word < s.audit.capturedAppend.getD 0 ∨
        (s.audit.stage = .strips ∧ e.word < 46 + 8 * s.audit.position) := by
  unfold endAuditUnit
  cases hstage : s.audit.stage with
  | records =>
    by_cases hpast : readNormal s.array s.audit.position = 0#32 ∨
        s.audit.capturedAppend.getD 0 < s.audit.position + recordLength s.array s.audit.position
    · refine ⟨s.tally, _, rfl, ?_, fun e he => .inl he⟩
      dsimp only
      rw [endRecordUnit_past hpast]
      exact goesOn_nextStrip s 0 s.tally
    · rw [not_or, Nat.not_lt] at hpast
      obtain ⟨x, hcompare, hentries⟩ := compareRecord_entries s.audit.position s
      refine ⟨x, _, rfl, ?_, fun e he => (hentries e he).imp_right fun hlt => .inl (by omega)⟩
      dsimp only
      rw [hstage] at hcompare
      rw [endRecordUnit_within hpast.1 hpast.2 hcompare]
      exact goesOn_continueAudit ..
  | strips =>
    obtain ⟨x, hend, hentries⟩ := endStripUnit_entries s hstage
    refine ⟨x, _, rfl, ?_, fun e he => (hentries e he).imp_right fun hlt => .inr ⟨rfl, hlt⟩⟩
    dsimp only
    rw [hend]
    exact goesOn_continueAudit ..

theorem sameBlocks_completeAudit (s : State) :
    SameBlocks { s with audit := { s.audit with running := false } } (completeAudit s) := by
  unfold completeAudit
  dsimp only
  split
  · exact SameBlocks.refl _
  · exact sameBlocks_deliverResult ..

/-- The audit's walk leaves array, PGM_EN and engine. -/
theorem AuditGoesOn.frame {s t : State} {x : AuditTally} (h : AuditGoesOn s x t) :
    t.array = s.array ∧ t.pgmEn = s.pgmEn ∧ t.engine = s.engine := by
  cases h with
  | claims stage position => exact ⟨rfl, rfl, rfl⟩
  | completes stage position =>
    have h := sameBlocks_completeAudit (s.walkedTo stage position x)
    exact ⟨h.array, h.pgmEn, h.engine⟩

/-! ### What a command does to the array -/

/-- The array is as it was or has taken the pulse in progress; and a low PGM_EN still finds the pulse cut. -/
def Programs (s t : State) : Prop :=
  (t.array = s.array ∨ ∃ e, t.array = pulsedArray s e) ∧ (CutOk s → CutOk t)

theorem Programs.untouched {s t : State} (harray : t.array = s.array) (hpgm : t.pgmEn = s.pgmEn)
    (hstate : t.engine.state = s.engine.state) (hseq : t.engine.seq = s.engine.seq) : Programs s t := by
  refine ⟨.inl harray, fun hcut => ?_⟩
  have hrun : runningSequence t = runningSequence s := by unfold runningSequence; rw [hstate, hseq]
  rw [CutOk, hpgm, hrun]
  exact hcut

theorem Programs.core {s t : State} (h : SameCore s t) : Programs s t := 
  .untouched h.array h.pgmEn (congrArg Engine.state h.engine) (congrArg Engine.seq h.engine)

/-- The array is `m`, and while PGM_EN is low no pulse is in progress. -/
def Unpulsed (m : Memory) (u : State) : Prop := u.array = m ∧ (u.pgmEn = false → runningSequence u = none)

theorem Unpulsed.congr {m : Memory} {u v : State} (h : Unpulsed m u) (harray : v.array = u.array)
    (hpgm : v.pgmEn = u.pgmEn) (hengine : v.engine = u.engine) : Unpulsed m v := by
  refine ⟨harray.trans h.1, fun hlow => ?_⟩
  rw [runningSequence, hengine]
  exact h.2 (hpgm ▸ hlow)

/-- No operation of the engine's decisions touches the array or starts a pulse. -/
theorem engineKeeps_unpulsed (m : Memory) : EngineKeeps (Unpulsed m) where
  ends code weak s h := by
    cases hj : s.engine.job with
    | none => rw [finish_of_no_job hj]; exact h
    | some j =>
      have hblocks := (finish_blocks hj code weak).1
      refine ⟨hblocks.array.trans h.1, fun _ => ?_⟩
      rw [runningSequence, hblocks.engine]
      rfl
  prepares _ _ _ h := ⟨h.1, fun _ => rfl⟩
  works _ _ h := ⟨h.1, h.2⟩
  logs _ _ h := ⟨h.1, h.2⟩
  counts _ _ h := ⟨h.1, h.2⟩
  updates j word v s h :=
    have k := sameBlocks_policyUpdate j word v s
    h.congr k.array k.pgmEn k.engine
  commits key kind j sp s h :=
    have k := sameBlocks_commitPoint key kind j sp s
    h.congr k.array k.pgmEn k.engine
  repairs _ _ h := ⟨h.1, fun _ => rfl⟩

theorem unpulsed_endSequence (q : Sequence) (cls : OutcomeClass) (s : State) :
    Unpulsed s.array (endSequence q cls s) := by
  have h : Unpulsed s.array { s with engine := { s.engine with seq := none } } :=
    ⟨rfl, fun _ => by simp [runningSequence]⟩
  exact (engineKeeps_unpulsed s.array).handOver ⟨q.word, cls, q.pulses, readNormal s.array q.word, q.margin⟩ h

theorem unpulsed_duePulse (q : Sequence) (s : State) : Unpulsed s.array (duePulse q s) := by
  unfold duePulse
  split
  · next hhigh => exact ⟨rfl, fun hlow => absurd hhigh (by rw [show s.pgmEn = false from hlow]; decide)⟩
  · exact unpulsed_endSequence q .blocked s

theorem unpulsed_startSequence (q : Sequence) (s : State) : Unpulsed s.array (startSequence q s) := by
  unfold startSequence
  dsimp only
  split
  · exact unpulsed_endSequence ..
  · exact unpulsed_duePulse ..

theorem unpulsed_judgePulse (q : Sequence) (s : State) : Unpulsed s.array (judgePulse q s) := by
  unfold judgePulse
  dsimp only
  split
  · exact unpulsed_endSequence ..
  · split
    · exact unpulsed_endSequence ..
    · exact unpulsed_duePulse ..

theorem Unpulsed.cutOk {m : Memory} {u : State} (h : Unpulsed m u) : CutOk u := fun hlow => by
  rw [h.2 hlow]; rfl

theorem Unpulsed.programs {s u : State} (h : Unpulsed s.array u) : Programs s u := ⟨.inl h.1, fun _ => h.cutOk⟩

theorem cutOk_of_idle {s : State} (h : s.engine = Engine.resting) : CutOk s := fun _ => by
  rw [runningSequence, h]; rfl

theorem cutOk_markCut (s : State) (b : Bool) (m : Memory) :
    CutOk { s with pgmEn := b, array := m, engine := markCut s.engine } := by
  intro _
  unfold runningSequence markCut
  by_cases hp : s.engine.state = .programming
  · cases s.engine.seq <;> simp [hp]
  · simp [hp]

/-- A reader's grant leaves array, PGM_EN and engine. -/
theorem grantReader_frame (p : Port) (s : State) :
    (grantReader p s).array = s.array ∧ (grantReader p s).pgmEn = s.pgmEn ∧ (grantReader p s).engine = s.engine := by
  unfold grantReader
  split
  · split
    · have h := sameBlocks_answer p (commandCode .read) ‹ReadInHand›.tag ‹Code› ‹List Byte› s
      exact ⟨h.array, h.pgmEn, h.engine⟩
    · split <;> exact ⟨rfl, rfl, rfl⟩
  · exact ⟨rfl, rfl, rfl⟩
  · exact ⟨rfl, rfl, rfl⟩

theorem programs_of_handled {p : Port} {s t : State} (h : Handled p (s.taken p) t) : Programs s t := by
  have htaken := portAlone_taken p s
  cases h with
  | reading tag key =>
    have hset := (htaken.setPort { (s.taken p).port p with slot := .working ⟨tag, key⟩, reply := none }).core
    exact .untouched hset.array hset.pgmEn (congrArg Engine.state hset.engine) (congrArg Engine.seq hset.engine)
  | subscribed tag x => exact .core ((htaken.setPort _).answer ..).core
  | unsubscribed tag x => exact .core ((htaken.setPort _).answer ..).core
  | masked tag m => exact .core ((htaken.setPort _).judge.answer ..).core
  | emptied tag =>
    have hset := (htaken.setPort (resetPortState ((s.taken p).port p))).core
    refine .untouched ((sameBlocks_answer ..).array.trans hset.array) ((sameBlocks_answer ..).pgmEn.trans hset.pgmEn)
      ?_ ?_
    · rw [(sameBlocks_answer ..).engine]
      exact (congrArg Engine.state hset.engine :)
    · rw [(sameBlocks_answer ..).engine]
      exact (congrArg Engine.seq hset.engine :)
  | accepted cmd tag k =>
    have hset := (htaken.setPort { (s.taken p).port p with outstanding := ((s.taken p).port p).outstanding + 1 }).core
    refine .untouched ((sameBlocks_answer ..).array.trans hset.array) ((sameBlocks_answer ..).pgmEn.trans hset.pgmEn)
      ?_ ?_
    · rw [(sameBlocks_answer ..).engine]; exact congrArg Engine.state hset.engine
    · rw [(sameBlocks_answer ..).engine]; exact congrArg Engine.seq hset.engine
  | auditing tag touchUp =>
    have hset := ((htaken.setPort { (s.taken p).port p with
      outstanding := ((s.taken p).port p).outstanding + 1 }).answer (commandCode .audit) tag .accepted []).core
    obtain ⟨harray, hpgm, hengine⟩ := (goesOn_startAudit p tag touchUp _).frame
    exact .untouched (harray.trans hset.array) (hpgm.trans hset.pgmEn)
      (congrArg Engine.state (hengine.trans hset.engine)) (congrArg Engine.seq (hengine.trans hset.engine))

/-- What a command does to the array, and to a pulse that a low PGM_EN has cut. -/
theorem programs_of_happens {s t : State} (h : Happens s t) : Programs s t := by
  cases h with
  | nothing => exact .untouched rfl rfl rfl rfl
  | reset cut powered => exact ⟨.inr ⟨cut, rfl⟩, fun _ => cutOk_of_idle rfl⟩
  | released adr => exact .untouched rfl rfl rfl rfl
  | options => exact .untouched rfl rfl rfl rfl
  | strips =>
    rw [finishStrips_eq, mountOffers_frame]
    exact .untouched rfl rfl rfl rfl
  | records =>
    rw [finishRecords_eq s rfl rfl]
    exact .untouched rfl rfl rfl rfl
  | sorted =>
    unfold finishSort
    exact .untouched (sameBlocks_postNotice ..).array (sameBlocks_postNotice ..).pgmEn
      (congrArg Engine.state (sameBlocks_postNotice ..).engine) (congrArg Engine.seq (sameBlocks_postNotice ..).engine)
  | rise => exact ⟨.inl rfl, fun _ hlow => by cases hlow⟩
  | fall cut => exact ⟨.inr ⟨cut, rfl⟩, fun _ => cutOk_markCut s false _⟩
  | truncated p => exact .core (portAlone_truncated p s).core
  | discarded p => exact .core (portAlone_discarded p s).core
  | answered p => exact .core ((portAlone_taken p s).answer ..).core
  | handled p _ _ h => exact programs_of_handled h
  | fetched sel p =>
    obtain ⟨q, -, halone⟩ := fetchEffect_leaves sel p s
    exact .core halone.core
  | selected sel => exact .untouched rfl rfl rfl rfl
  | jobTaken j rest =>
    have hchecking : Unpulsed s.array (checking s j rest) := ⟨rfl, fun _ => rfl⟩
    exact ((engineKeeps_unpulsed s.array).startChecks j hchecking).programs
  | repairTaken e => exact ⟨.inl rfl, fun _ _ => rfl⟩
  | grantedEngine q => exact (unpulsed_startSequence q _).programs
  | grantedIdle => exact .untouched rfl rfl rfl rfl
  | grantedReader p =>
    obtain ⟨harray, hpgm, hengine⟩ := grantReader_frame p { s with arbiter := recordGrant (.reader p) s.arbiter }
    exact .untouched harray hpgm (congrArg Engine.state hengine) (congrArg Engine.seq hengine)
  | grantedAudit => exact .untouched rfl rfl rfl rfl
  | pulsed q e =>
    have h := unpulsed_judgePulse q { s with array := pulsedArray s e }
    exact ⟨.inr ⟨e, h.1⟩, fun _ => h.cutOk⟩
  | pulseEnded p => exact .core ((PortAlone.refl s p).setPort _).core
  | burstEnded p e r =>
    have h := sameBlocks_answer p (commandCode .read) r.tag .data ‹_› (releaseArray s)
    exact .untouched h.array h.pgmEn (congrArg Engine.state h.engine) (congrArg Engine.seq h.engine)
  | burstLost p e => exact .untouched rfl rfl rfl rfl
  | audited =>
    obtain ⟨x, t, hend, hgoes, -⟩ := endAuditUnit_goesOn s
    obtain ⟨harray, hpgm, hengine⟩ := hgoes.frame
    rw [hend]
    exact .untouched harray hpgm (congrArg Engine.state hengine) (congrArg Engine.seq hengine)

/-! ### The settled statements (law L1; R3, R12) -/

theorem CellsRise.refl (m : Memory) : CellsRise m m := fun _ => ⟨BitVec.and_not_self _, BitVec.and_not_self _⟩

/-- A pulse raises the cells of its word and leaves the others (law L1). -/
theorem cellsRise_pulsedArray {s : State} (hwf : Memory.wf s.array = true) (e : PulseEffect) :
    CellsRise s.array (pulsedArray s e) := by
  unfold pulsedArray
  split
  · exact CellsRise.refl _
  · next q _ =>
    split
    · exact CellsRise.refl _
    · intro i
      unfold readNormal readMargin
      rw [cellsAt_pulseWord hwf]
      split
      · next hi => subst hi; exact pulseCells_rise ..
      · exact CellsRise.refl s.array i

/-- What a command leaves of a canonical array is canonical and no lower. -/
theorem array_of_happens {s t : State} (hwf : Memory.wf s.array = true) (h : Happens s t) :
    Memory.wf t.array = true ∧ CellsRise s.array t.array := by
  rcases (programs_of_happens h).1 with harray | ⟨e, harray⟩
  · rw [harray]; exact ⟨hwf, CellsRise.refl _⟩
  · rw [harray]; exact ⟨wf_pulsedArray hwf e, cellsRise_pulsedArray hwf e⟩

/-- Settles O6: every command leaves the array or applies the pulse in progress, which only raises cells. -/
theorem cellsOnlyRise : Obligations.CellsOnlyRise := by
  unfold Obligations.CellsOnlyRise
  intro s t hwf hstep
  obtain ⟨rest, h⟩ := happens_of_step hstep
  exact array_of_happens (s := { s with pending := rest }) hwf h

/-- While PGM_EN is low the pulse in progress has been cut, so it acts on no cell (R3, R12). -/
theorem pulsedArray_of_low {s : State} (hcut : CutOk s) (hlow : s.pgmEn = false) (e : PulseEffect) :
    pulsedArray s e = s.array := by
  have hall := hcut hlow
  unfold pulsedArray
  split
  · rfl
  · next q hrun =>
    rw [hrun] at hall
    exact if_pos (.inl (by simpa using hall))

/-- Settles O12: the only change of the array is a pulse, and a low PGM_EN has cut the one in progress. -/
theorem writeProtectHolds : Obligations.WriteProtectHolds := by
  unfold Obligations.WriteProtectHolds
  intro s t hcut hstep
  obtain ⟨rest, h⟩ := happens_of_step hstep
  obtain ⟨harray, hkept⟩ := programs_of_happens h
  refine ⟨hkept hcut, fun hlow => ?_⟩
  rcases harray with harray | ⟨e, harray⟩
  · exact harray
  · exact harray.trans (pulsedArray_of_low (s := { s with pending := rest }) hcut hlow e)

end Sys2Proof.Machine
end

section
/-! Rings and subscription tables stay within their bounds (law L11; R142, R148). -/

namespace Sys2Proof.Machine

/-- At most 16 notices, wrapped only at 16, at most 32 subscriptions and none twice (R142, R148). -/
def RingFits (q : PortState) : Prop :=
  q.ring.length ≤ 16 ∧ (q.wrapped = true → q.ring.length = 16) ∧ q.subs.length ≤ 32 ∧ q.subs.Nodup

theorem mem_allPorts (p : Port) : p ∈ allPorts := by cases p <;> decide

theorem ringsOk_iff (s : State) : RingsOk s ↔ ∀ p, RingFits (s.port p) :=
  ⟨fun h p => h p (mem_allPorts p), fun h p _ => h p⟩

/-! ### What happens to one port -/

theorem RingFits.congr {q q' : PortState} (h : RingFits q) (hring : q'.ring = q.ring) (hwrapped : q'.wrapped = q.wrapped)
    (hsubs : q'.subs = q.subs) : RingFits q' := by
  rw [RingFits, hring, hwrapped, hsubs]; exact h

theorem RingFits.empty {q : PortState} (hring : q.ring = []) (hwrapped : q.wrapped = false) (hsubs : q.subs = []) :
    RingFits q := by
  simp [RingFits, hring, hwrapped, hsubs]

theorem lineMoved_rings (level enabled : Bool) (q : PortState) :
    (lineMoved level enabled q).ring = q.ring ∧ (lineMoved level enabled q).wrapped = q.wrapped ∧
      (lineMoved level enabled q).subs = q.subs := by
  unfold lineMoved
  split
  · exact ⟨rfl, rfl, rfl⟩
  · split <;> exact ⟨rfl, rfl, rfl⟩

theorem RingFits.lineMoved {q : PortState} (h : RingFits q) (level enabled : Bool) :
    RingFits (lineMoved level enabled q) := by
  obtain ⟨hring, hwrapped, hsubs⟩ := lineMoved_rings level enabled q
  exact h.congr hring hwrapped hsubs

/-- A notice at a ring with room makes it longer by one; at a full ring the oldest leaves (R148). -/
theorem RingFits.noticed {q : PortState} (h : RingFits q) (level : Bool) (n : Notice) :
    RingFits (noticed level n q) := by
  obtain ⟨hring, hwrapped, hsubs, hnodup⟩ := h
  refine RingFits.lineMoved ?_ _ _
  refine ⟨?_, ?_, hsubs, hnodup⟩
  · change (ringWith q n).length ≤ 16
    unfold ringWith
    split <;> simp <;> omega
  · change (if 16 ≤ q.ring.length then true else q.wrapped) = true → (ringWith q n).length = 16
    unfold ringWith
    by_cases hfull : 16 ≤ q.ring.length
    · simp [hfull]
      omega
    · rw [if_neg hfull]
      intro hw
      exact absurd (hwrapped hw) (by omega)

theorem RingFits.jobEnded {q : PortState} (h : RingFits q) (level orphan : Bool) (r : Result) :
    RingFits (jobEnded level orphan r q) := by
  unfold Machine.jobEnded
  split
  · exact h
  · exact RingFits.congr (RingFits.lineMoved (q := { q with results := q.results ++ [r] }) h level _) rfl rfl rfl

theorem RingFits.fetched {level : Bool} {q q' : PortState} (h : RingFits q) (hf : FetchLeaves level q q') :
    RingFits q' := by
  cases hf with
  | copied | flags | reply | result => exact h.congr rfl rfl rfl
  | notice n rest bytes hhead =>
    obtain ⟨hring, -, hsubs, hnodup⟩ := h
    refine ⟨?_, fun hw => absurd (show false = true from hw) (by decide), hsubs, hnodup⟩
    rw [hhead, List.length_cons] at hring
    exact Nat.le_of_succ_le hring

theorem RingFits.subscribed {q : PortState} (h : RingFits q) {x : Subscription} (hnew : x ∉ q.subs)
    (hroom : q.subs.length < 32) : RingFits { q with subs := q.subs ++ [x] } := by
  obtain ⟨hring, hwrapped, -, hnodup⟩ := h
  refine ⟨hring, hwrapped, ?_, ?_⟩
  · rw [List.length_append]; exact hroom
  · exact List.nodup_append.2 ⟨hnodup, List.nodup_singleton x, fun a ha b hb hab =>
      hnew (List.mem_singleton.1 hb ▸ hab ▸ ha)⟩

theorem RingFits.unsubscribed {q : PortState} (h : RingFits q) (x : Subscription) :
    RingFits { q with subs := q.subs.filter (fun y => y ≠ x) } := by
  obtain ⟨hring, hwrapped, hsubs, hnodup⟩ := h
  exact ⟨hring, hwrapped, Nat.le_trans (List.length_filter_le ..) hsubs, hnodup.filter _⟩

/-! ### What happens to all ports -/

/-- Every port's ring and subscriptions fit. -/
def RingsFit (s : State) : Prop := ∀ p, RingFits (s.port p)

theorem RingsFit.alone {s t : State} {p : Port} {q : PortState} (h : RingsFit s) (ht : PortAlone s p q t)
    (hq : RingFits q) : RingsFit t := by
  intro r
  by_cases hr : r = p
  · subst hr; rw [ht.here]; exact hq
  · rw [ht.others r hr]; exact h r

theorem RingsFit.congr {s t : State} (h : RingsFit s) (ht : ∀ p, t.port p = s.port p) : RingsFit t :=
  fun p => (ht p).symm ▸ h p

theorem RingsFit.postNotice {s : State} (h : RingsFit s) (n : Notice) : RingsFit (postNotice n s) := by
  intro p
  rw [port_postNotice]
  split
  · rw [port_arriveNotice_noticed]; exact (h p).noticed _ n
  · exact h p

theorem RingsFit.deliverResult {s : State} (h : RingsFit s) (p : Port) (orphan : Bool) (r : Result) :
    RingsFit (deliverResult p orphan r s) := by
  intro x
  by_cases hx : x = p
  · subst hx; rw [port_deliverResult_jobEnded]; exact (h x).jobEnded _ orphan r
  · rw [port_deliverResult_other hx]; exact h x

theorem RingsFit.finishNotices {s : State} (h : RingsFit s) (j : Job) : RingsFit (finishNotices j s) := by
  unfold Machine.finishNotices
  split
  · split
    · exact h.postNotice _
    · exact h
  all_goals exact h

theorem RingsFit.finish {s : State} (h : RingsFit s) (code : Code) (weak : Bool) : RingsFit (finish code weak s) := by
  cases hj : s.engine.job with
  | none => rw [finish_of_no_job hj]; exact h
  | some j =>
    intro p
    rw [(finish_blocks hj code weak).2 p]
    split
    · exact (h.finishNotices j p).jobEnded _ _ _
    · exact h.finishNotices j p

theorem RingsFit.policyUpdate {s : State} (h : RingsFit s) (j : Job) (word : Nat) (v : Word) :
    RingsFit (policyUpdate j word v s) := by
  have hset : RingsFit (setCopyWord word v s) := h.congr fun p => by simp
  have hposted : RingsFit (if v = copyWord s word then setCopyWord word v s
      else Machine.postNotice ⟨.policyChanged, word, v, some j.port⟩ (setCopyWord word v s)) := by
    split
    · exact hset
    · exact hset.postNotice _
  intro p
  unfold Machine.policyUpdate
  dsimp only
  rw [port_enterNewLevels]
  split
  · rw [port_enterLevel_same]; exact (hposted p).congr rfl rfl rfl
  · exact hposted p

/-- The engine's decisions keep rings and subscriptions. -/
theorem engineKeeps_rings : EngineKeeps RingsFit where
  ends _ _ _ h := h.finish _ _
  prepares _ _ _ h := h.congr fun p => by simp
  works _ _ h := h.congr fun p => by simp
  logs _ _ h := h.congr fun p => by cases p <;> rfl
  counts _ _ h := h.congr fun p => by simp
  updates j word v _ h := h.policyUpdate j word v
  commits _ _ _ _ s h := RingsFit.postNotice (s := { s with directory := _ }) (h.congr fun p => by cases p <;> rfl) _
  repairs _ _ h := h.congr fun p => by cases p <;> rfl

theorem RingsFit.endSequence {s : State} (h : RingsFit s) (q : Sequence) (cls : OutcomeClass) :
    RingsFit (endSequence q cls s) := by
  have hstart : RingsFit { s with engine := { s.engine with seq := none } } := h.congr fun p => by cases p <;> rfl
  exact (engineKeeps_rings.handOver ⟨q.word, cls, q.pulses, readNormal s.array q.word, q.margin⟩ hstart).congr
    fun p => by cases p <;> rfl

theorem RingsFit.duePulse {s : State} (h : RingsFit s) (q : Sequence) : RingsFit (duePulse q s) := by
  unfold Machine.duePulse
  split
  · exact h.congr fun p => by cases p <;> rfl
  · exact h.endSequence q .blocked

theorem RingsFit.startSequence {s : State} (h : RingsFit s) (q : Sequence) : RingsFit (startSequence q s) := by
  unfold Machine.startSequence
  dsimp only
  split
  · exact h.endSequence _ _
  · exact h.duePulse _

theorem RingsFit.judgePulse {s : State} (h : RingsFit s) (q : Sequence) : RingsFit (judgePulse q s) := by
  unfold Machine.judgePulse
  dsimp only
  split
  · exact h.endSequence _ _
  · split
    · exact h.endSequence _ _
    · exact h.duePulse _

theorem RingsFit.completeAudit {s : State} (h : RingsFit s) : RingsFit (completeAudit s) := by
  have hidle : RingsFit { s with audit := { s.audit with running := false } } := h.congr fun p => by cases p <;> rfl
  unfold Machine.completeAudit
  dsimp only
  split
  · exact hidle
  · exact hidle.deliverResult _ _ _

theorem RingsFit.goesOn {s t : State} {x : AuditTally} (h : RingsFit s) (hgoes : AuditGoesOn s x t) : RingsFit t := by
  cases hgoes with
  | claims stage position => exact h.congr fun p => by cases p <;> rfl
  | completes stage position =>
    exact RingsFit.completeAudit (s := s.walkedTo stage position x) (h.congr fun p => by cases p <;> rfl)

theorem RingsFit.grantReader {s : State} (h : RingsFit s) (p : Port) : RingsFit (grantReader p s) := by
  unfold Machine.grantReader
  split
  · split
    · exact h.alone ((PortAlone.refl s p).answer ..) ((h p).congr rfl rfl rfl)
    · split
      · exact h.congr fun p => by cases p <;> rfl
      · exact h
  · exact h
  · exact h

/-! ### Every command -/

theorem RingsFit.handled {p : Port} {s t : State} (h : RingsFit s) (ht : Handled p s t) : RingsFit t := by
  have hself := PortAlone.refl s p
  cases ht with
  | reading tag key =>
    have hset : RingsFit (s.setPort p { s.port p with slot := .working ⟨tag, key⟩, reply := none }) :=
      h.alone (hself.setPort _) ((h p).congr rfl rfl rfl)
    exact hset.congr fun r => by cases r <;> rfl
  | subscribed tag x hnew hroom =>
    exact h.alone ((hself.setPort _).answer ..) (((h p).subscribed hnew hroom).congr rfl rfl rfl)
  | unsubscribed tag x =>
    exact h.alone ((hself.setPort _).answer ..) (((h p).unsubscribed x).congr rfl rfl rfl)
  | masked tag m => exact h.alone ((hself.setPort _).judge.answer ..) ((h p).congr rfl rfl rfl)
  | emptied tag =>
    have hset : RingsFit (s.setPort p (resetPortState (s.port p))) :=
      h.alone (hself.setPort _) (.empty rfl rfl rfl)
    have horphan : RingsFit (orphanPort p (s.setPort p (resetPortState (s.port p)))) := hset.congr fun r => by simp
    exact horphan.alone ((PortAlone.refl _ p).answer ..) ((horphan p).congr rfl rfl rfl)
  | accepted cmd tag k =>
    have hset : RingsFit (s.setPort p { s.port p with outstanding := (s.port p).outstanding + 1 }) :=
      h.alone (hself.setPort _) ((h p).congr rfl rfl rfl)
    have haccepted : RingsFit (acceptJob p tag k s) := hset.congr fun r => by cases r <;> rfl
    exact haccepted.alone ((PortAlone.refl _ p).answer ..) ((haccepted p).congr rfl rfl rfl)
  | auditing tag touchUp =>
    have hset := h.alone ((hself.setPort { s.port p with outstanding := (s.port p).outstanding + 1 }).answer
      (commandCode .audit) tag .accepted []) ((h p).congr rfl rfl rfl)
    exact RingsFit.goesOn (hset.congr fun r => by cases r <;> rfl) (goesOn_startAudit p tag touchUp _)

/-- What a command leaves of rings and subscriptions that fit fits. -/
theorem RingsFit.happens {s t : State} (h : RingsFit s) (ht : Happens s t) : RingsFit t := by
  have htaken : ∀ p, RingsFit (s.taken p) := fun p => h.alone (portAlone_taken p s) ((h p).congr rfl rfl rfl)
  cases ht with
  | nothing => exact h
  | reset cut powered => intro p; cases p <;> exact .empty rfl rfl rfl
  | released | options | rise | fall | selected | repairTaken | grantedIdle | grantedAudit | burstLost =>
    exact h.congr fun p => by cases p <;> rfl
  | strips =>
    rw [finishStrips_eq, mountOffers_frame]
    exact h.congr fun p => by cases p <;> rfl
  | records =>
    rw [finishRecords_eq s rfl rfl]
    exact h.congr fun p => by cases p <;> rfl
  | sorted => exact RingsFit.postNotice (h.congr fun p => by cases p <;> rfl) mountDoneNotice
  | truncated p => exact h.alone (portAlone_truncated p s) ((h p).congr rfl rfl rfl)
  | discarded p => exact h.alone (portAlone_discarded p s) ((h p).congr rfl rfl rfl)
  | answered p => exact h.alone ((portAlone_taken p s).answer ..) ((h p).congr rfl rfl rfl)
  | handled p _ _ ht => exact (htaken p).handled ht
  | fetched sel p =>
    obtain ⟨q, hleaves, halone⟩ := fetchEffect_leaves sel p s
    exact h.alone halone ((h p).fetched hleaves)
  | jobTaken j rest =>
    have hchecking : RingsFit (checking s j rest) := h.congr fun p => by cases p <;> rfl
    exact engineKeeps_rings.startChecks j hchecking
  | grantedEngine q => exact RingsFit.startSequence (h.congr fun p => by cases p <;> rfl) q
  | grantedReader p => exact RingsFit.grantReader (h.congr fun p => by cases p <;> rfl) p
  | pulsed q e => exact RingsFit.judgePulse (h.congr fun p => by cases p <;> rfl) q
  | pulseEnded p => exact h.alone ((PortAlone.refl s p).setPort _) ((h p).congr rfl rfl rfl)
  | burstEnded p e r =>
    have hreleased : RingsFit (releaseArray s) := h.congr fun p => by simp
    exact hreleased.alone ((PortAlone.refl _ p).answer ..) ((hreleased p).congr rfl rfl rfl)
  | audited =>
    obtain ⟨x, t, hend, hgoes, -⟩ := endAuditUnit_goesOn s
    rw [hend]
    exact (h.goesOn hgoes).congr fun p => by simp

/-- Settles O9: each arrival, each subscription and each reset keeps the bounds. -/
theorem ringsKept : Obligations.RingsKept := by
  unfold Obligations.RingsKept
  intro s t hs hstep
  exact step_happens (P := RingsOk) (fun s rest h => h)
    (fun s t h ht => (ringsOk_iff t).2 (RingsFit.happens ((ringsOk_iff s).1 h) ht)) hs hstep

end Sys2Proof.Machine
end

section
/-! The invariant by blocks: what it asks of each port, of the blocks beside ports and engine, and of the engine; and what
happens to one port. -/

namespace Sys2Proof.Machine

/-! ### One port -/

/-- A LEVEL line follows the work waiting, with no pulse; a PULSE line follows the pulse (R151, R152). -/
def LineFits (level : Bool) (q : PortState) : Prop :=
  (level = true → q.lineLow = workWaiting q ∧ q.pulseActive = false) ∧
    (level = false → q.lineLow = q.pulseActive)

/-- What the invariant asks of a port: `busy` when its reader claims or holds the array, with `work` jobs and audits in
flight, its line in LEVEL mode or not. -/
structure PortFits (busy : Bool) (work : Nat) (level : Bool) (device : DeviceState) (q : PortState) : Prop where
  slot : slotWorking q = busy
  reply : q.reply.isSome = decide (q.slot = .replyReady)
  outstanding : q.outstanding = work
  most : q.outstanding ≤ 3
  share : q.outstanding + q.results.length ≤ 4
  line : device = .ready → LineFits level q
  quiet : device = .mounting → portQuiet q = true

namespace PortFits

variable {busy : Bool} {work : Nat} {level : Bool} {device : DeviceState} {q q' : PortState}

/-- A change of line, notices, mask, flags or output is judged by the line alone. -/
theorem withLine (h : PortFits busy work level .ready q) {level' : Bool} (hslot : q'.slot = q.slot)
    (hreply : q'.reply = q.reply) (hout : q'.outstanding = q.outstanding) (hres : q'.results = q.results)
    (hline : LineFits level' q') : PortFits busy work level' .ready q' where
  slot := by rw [slotWorking, slotFree, hslot]; exact h.slot
  reply := by rw [hreply, hslot]; exact h.reply
  outstanding := hout.trans h.outstanding
  most := hout ▸ h.most
  share := by rw [hout, hres]; exact h.share
  line _ := hline
  quiet hd := by cases hd

/-- A change of slot and reply leaves line and counts. -/
theorem withSlot (h : PortFits busy work level device q) {busy' : Bool} (slot : Slot) (reply : Option Item)
    (output : List Byte) (hbusy : slotWorking { q with slot := slot, reply := reply, output := output } = busy')
    (hreply : reply.isSome = decide (slot = .replyReady)) :
    PortFits busy' work level device { q with slot := slot, reply := reply, output := output } where
  slot := hbusy
  reply := hreply
  outstanding := h.outstanding
  most := h.most
  share := h.share
  line := h.line
  quiet := h.quiet

theorem withFlags (h : PortFits busy work level device q) (discard truncated : Bool) (output : List Byte) :
    PortFits busy work level device { q with discard := discard, truncated := truncated, output := output } :=
  ⟨h.slot, h.reply, h.outstanding, h.most, h.share, h.line, h.quiet⟩

end PortFits

/-- In LEVEL mode a line judged fits. -/
theorem lineFits_judged {level : Bool} {q : PortState} (hpulse : level = true → q.pulseActive = false)
    (hline : level = false → q.lineLow = q.pulseActive) : LineFits level (judged level q) := by
  cases level with
  | true => exact ⟨fun _ => ⟨rfl, hpulse rfl⟩, (fun h => by cases h)⟩
  | false => exact ⟨(fun h => by cases h), fun _ => hline rfl⟩

theorem LineFits.pulse {level : Bool} {q : PortState} (h : LineFits level q) :
    (level = true → q.pulseActive = false) ∧ (level = false → q.lineLow = q.pulseActive) :=
  ⟨fun hl => (h.1 hl).2, h.2⟩

/-- An arrival moves a line that fits to one that fits (R151, R152). -/
theorem LineFits.lineMoved {level : Bool} {q : PortState} (hpulse : level = true → q.pulseActive = false)
    (hline : level = false → q.lineLow = q.pulseActive) (enabled : Bool) : LineFits level (lineMoved level enabled q) := by
  cases level with
  | true => exact ⟨fun _ => ⟨rfl, hpulse rfl⟩, (fun h => by cases h)⟩
  | false =>
    refine ⟨(fun h => by cases h), fun _ => ?_⟩
    cases enabled
    · exact hline rfl
    · rfl

theorem LineFits.noticed {level : Bool} {q : PortState} (h : LineFits level q) (n : Notice) :
    LineFits level (noticed level n q) :=
  LineFits.lineMoved (q := { q with ring := ringWith q n, wrapped := if 16 ≤ q.ring.length then true else q.wrapped })
    h.pulse.1 h.pulse.2 _

/-- What a moved line leaves of its port. -/
theorem lineMoved_counts (level enabled : Bool) (q : PortState) :
    (lineMoved level enabled q).slot = q.slot ∧ (lineMoved level enabled q).reply = q.reply ∧
      (lineMoved level enabled q).outstanding = q.outstanding ∧ (lineMoved level enabled q).results = q.results := by
  unfold lineMoved
  split
  · exact ⟨rfl, rfl, rfl, rfl⟩
  · split <;> exact ⟨rfl, rfl, rfl, rfl⟩

theorem noticed_counts (level : Bool) (n : Notice) (q : PortState) :
    (noticed level n q).slot = q.slot ∧ (noticed level n q).reply = q.reply ∧
      (noticed level n q).outstanding = q.outstanding ∧ (noticed level n q).results = q.results :=
  lineMoved_counts level _ { q with ring := ringWith q n, wrapped := if 16 ≤ q.ring.length then true else q.wrapped }

namespace PortFits

variable {busy : Bool} {work : Nat} {level : Bool} {q : PortState}

theorem noticed (h : PortFits busy work level .ready q) (n : Notice) :
    PortFits busy work level .ready (noticed level n q) :=
  have ⟨hslot, hreply, hout, hres⟩ := noticed_counts level n q
  h.withLine hslot hreply hout hres ((h.line rfl).noticed n)

/-- A job or audit of the port ends: one piece of work fewer, at most one result more (R26, R37, R39). -/
theorem jobEnded (h : PortFits busy (work + 1) level .ready q) (orphan : Bool) (r : Result) :
    PortFits busy work level .ready (jobEnded level orphan r q) := by
  have hout := h.outstanding
  have hmost := h.most
  have hshare := h.share
  unfold Machine.jobEnded
  split
  · refine ⟨h.slot, h.reply, ?_, ?_, ?_, h.line, fun hd => by cases hd⟩ <;> dsimp only <;> omega
  · obtain ⟨hslot, hreply, -, hres⟩ :=
      lineMoved_counts level (q.mask.getLsbD 5) { q with results := q.results ++ [r] }
    have hline : LineFits level (Machine.lineMoved level (q.mask.getLsbD 5) { q with results := q.results ++ [r] }) :=
      LineFits.lineMoved (q := { q with results := q.results ++ [r] }) (h.line rfl).pulse.1 (h.line rfl).pulse.2 _
    refine ⟨?_, ?_, ?_, ?_, ?_, fun _ => hline, fun hd => by cases hd⟩
    · unfold slotWorking slotFree
      dsimp only
      rw [hslot]
      exact h.slot
    · dsimp only
      rw [hslot, hreply]
      exact h.reply
    · dsimp only; omega
    · dsimp only; omega
    · dsimp only
      rw [hres, List.length_append]
      simp only [List.length_cons, List.length_nil]
      omega

/-- A frame is answered at a slot that is not WORKING (R131). -/
theorem answered {device : DeviceState} (h : PortFits busy work level device q) (item : Item) :
    PortFits false work level device { q with slot := .replyReady, reply := some item } :=
  h.withSlot .replyReady (some item) q.output rfl rfl

/-- What a fetch leaves of a port that fits fits. -/
theorem fetched {device : DeviceState} {q' : PortState} (h : PortFits busy work level device q)
    (hf : FetchLeaves level q q') : PortFits busy work level device q' := by
  cases hf with
  | copied bytes => exact h.withFlags q.discard q.truncated bytes
  | flags bytes => exact h.withFlags false false bytes
  | reply bytes hslot =>
    refine h.withSlot .empty none bytes ?_ rfl
    rw [← h.slot, slotWorking, slotWorking, slotFree, slotFree, hslot]
  | result r rest bytes hhead =>
    cases device with
    | mounting =>
      have hquiet := h.quiet rfl
      simp [portQuiet, hhead] at hquiet
    | ready =>
      have hshare := h.share
      rw [hhead, List.length_cons] at hshare
      refine ⟨h.slot, h.reply, h.outstanding, h.most, ?_, fun _ => ?_, fun hd => by cases hd⟩
      · change q.outstanding + rest.length ≤ 4
        omega
      · exact lineFits_judged (h.line rfl).pulse.1 (h.line rfl).pulse.2
  | notice n rest bytes hhead =>
    cases device with
    | mounting =>
      have hquiet := h.quiet rfl
      simp [portQuiet, hhead] at hquiet
    | ready =>
      exact h.withLine rfl rfl rfl rfl (lineFits_judged (h.line rfl).pulse.1 (h.line rfl).pulse.2)

end PortFits

/-- A quiet port's line is released in both modes. -/
theorem lineFits_of_quiet {q : PortState} (h : portQuiet q = true) (level : Bool) : LineFits level q := by
  simp only [portQuiet, Bool.and_eq_true, Bool.not_eq_true', List.isEmpty_iff, beq_iff_eq] at h
  obtain ⟨⟨⟨⟨hring, hresults⟩, hline⟩, hpulse⟩, -⟩ := h
  refine ⟨fun _ => ⟨?_, hpulse⟩, fun _ => hline.trans hpulse.symm⟩
  simp [hline, workWaiting, hring, hresults]

/-! ### The ports of a state -/

/-- Port `p`'s reader has a claim pending or holds the array (R16). -/
def readerBusy (a : Arbiter) (p : Port) : Bool := claimPending a.claims (.reader p) || holdsFor a.holder p

/-- Port `p` with state `q` fits the blocks of `s`. -/
def PortFitsAt (s : State) (p : Port) (q : PortState) : Prop :=
  PortFits (readerBusy s.arbiter p) (outstandingWork s p) (levelMode s p) s.device q

/-- Every port fits. -/
def PortsFit (s : State) : Prop := ∀ p, PortFitsAt s p (s.port p)

/-- What `PortFitsAt` reads of a state. -/
structure SameDemands (s t : State) : Prop where
  busy : ∀ p, readerBusy t.arbiter p = readerBusy s.arbiter p
  work : ∀ p, outstandingWork t p = outstandingWork s p
  policy : t.policy = s.policy
  device : t.device = s.device

theorem outstandingWork_congr {s t : State} (hjobs : t.jobs = s.jobs) (hengine : t.engine.job = s.engine.job)
    (haudit : t.audit = s.audit) (p : Port) : outstandingWork t p = outstandingWork s p := by
  simp only [outstandingWork, hjobs, hengine, haudit]

theorem SameCore.demands {s t : State} (h : SameCore s t) : SameDemands s t where
  busy p := by rw [h.arbiter]
  work p := outstandingWork_congr h.jobs (by rw [h.engine]) h.audit p
  policy := h.policy
  device := h.device

theorem PortFitsAt.congr {s t : State} {p : Port} {q : PortState} (h : PortFitsAt s p q) (k : SameDemands s t) :
    PortFitsAt t p q := by
  unfold PortFitsAt
  rw [k.busy, k.work, levelMode_congr k.policy, k.device]
  exact h

theorem PortsFit.congr {s t : State} (h : PortsFit s) (k : SameDemands s t) (hports : ∀ p, t.port p = s.port p) :
    PortsFit t := fun p => (hports p).symm ▸ (h p).congr k

theorem PortsFit.alone {s t : State} {p : Port} {q : PortState} (h : PortsFit s) (ht : PortAlone s p q t)
    (hq : PortFitsAt s p q) : PortsFit t := by
  intro r
  by_cases hr : r = p
  · subst hr; rw [ht.here]; exact hq.congr ht.core.demands
  · rw [ht.others r hr]; exact (h r).congr ht.core.demands

/-! ### The blocks beside ports and engine -/

/-- What the invariant asks of the blocks beside the ports and the engine. -/
structure BlocksFit (s : State) : Prop where
  audit : AuditOk s
  apart : ∀ p, (claimPending s.arbiter.claims (.reader p) && holdsFor s.arbiter.holder p) = false
  decided : DecidedOk s
  queue : s.jobs.length ≤ 8
  kinds : ∀ j ∈ s.jobs, kindInRange j.kind = true
  sorted : s.directory.Pairwise (fun x y => x.key < y.key)
  entries : s.directory.length ≤ 1024
  spans : ∀ e ∈ s.directory, spanInArray e.location e.w = true
  table : s.mount.keyTable.length ≤ 1024
  tableSpans : ∀ k ∈ s.mount.keyTable, spanInArray k.winner.location k.winner.header.w = true
  policy : PolicyOk s
  append : s.log.appendPoint ≤ 16384
  cursor : s.log.stripCursor ≤ 512
  repair : ∀ e ∈ s.repair.entries, e.word < 16384
  strips : ∀ e ∈ s.counters, e.strip.all (fun n => decide (n < 512)) = true
  reads : readsInArray s = true
  phase : s.device = .ready ↔ s.mount.phase = .ready
  still : s.device = .mounting → s.jobs = [] ∧ s.audit.running = false ∧ s.arbiter.holder = .none ∧
    s.arbiter.claims = ⟨false, false, false, false, false⟩
  rst : s.rstLow = true → s.mount.phase = .options
  supply : s.powered = false → s.rstLow = true

theorem BlocksFit.congr {s t : State} (h : BlocksFit s) (k : SameCore s t) : BlocksFit t := by
  rcases s with ⟨⟩
  rcases t with ⟨⟩
  obtain ⟨harray, hpowered, hrst, hpgm, hdevice, hmount, hpolicy, hdirectory, hcounters, hlog, hrepair, hengine, hjobs,
    harbiter, haudit⟩ := k
  cases harray; cases hpowered; cases hrst; cases hpgm; cases hdevice; cases hmount; cases hpolicy; cases hdirectory
  cases hcounters; cases hlog; cases hrepair; cases hengine; cases hjobs; cases harbiter; cases haudit
  exact ⟨h.audit, h.apart, h.decided, h.queue, h.kinds, h.sorted, h.entries, h.spans, h.table, h.tableSpans, h.policy,
    h.append, h.cursor, h.repair, h.strips, h.reads, h.phase, h.still, h.rst, h.supply⟩

/-! ### The engine -/

/-- The engine has a sequence in hand, and what it holds for it fits (R29, R42, R68, R84). -/
structure Carries (s : State) : Prop where
  busy : engineBusy s.engine = true
  room : directoryRoom s = true
  bound : counterBound s = true
  kind : s.engine.job.all (fun j => kindInRange j.kind) = true
  word : s.engine.seq.all (fun q => decide (q.word < 16384)) = true
  work : workInArray s.engine.work = true

/-- Between events the engine is IDLE with nothing in hand, WAITING with its claim pending, or PROGRAMMING with the
array held; and of a READY part when it is not IDLE. -/
inductive EngineFits (s : State) : Prop
  | idle (hengine : s.engine = Engine.resting) (hclaim : s.arbiter.claims.engine = false)
      (hheld : s.arbiter.holder ≠ .engine)
  | waiting (hstate : s.engine.state = .waiting) (hclaim : s.arbiter.claims.engine = true)
      (hheld : s.arbiter.holder ≠ .engine) (hready : s.device = .ready) (hcarries : Carries s)
  | programming (hstate : s.engine.state = .programming) (hclaim : s.arbiter.claims.engine = false)
      (hheld : s.arbiter.holder = .engine) (hready : s.device = .ready) (hcarries : Carries s)

theorem Carries.congr {s t : State} (h : Carries s) (hengine : t.engine = s.engine) (hdirectory : t.directory = s.directory)
    (hcounters : t.counters = s.counters) : Carries t where
  busy := by rw [hengine]; exact h.busy
  room := by
    have hroom := h.room
    unfold directoryRoom at hroom ⊢
    rw [hengine, hdirectory]
    exact hroom
  bound := by
    have hbound := h.bound
    unfold counterBound at hbound ⊢
    simp only [hengine, counterEntry_congr hcounters]
    exact hbound
  kind := by rw [hengine]; exact h.kind
  word := by rw [hengine]; exact h.word
  work := by rw [hengine]; exact h.work

/-- The engine fits as before when it, its claim, its hold and what it reads are as before. -/
theorem EngineFits.congr {s t : State} (h : EngineFits s) (hengine : t.engine = s.engine)
    (hclaim : t.arbiter.claims.engine = s.arbiter.claims.engine)
    (hheld : t.arbiter.holder = .engine ↔ s.arbiter.holder = .engine) (hdevice : t.device = s.device)
    (hdirectory : t.directory = s.directory) (hcounters : t.counters = s.counters) : EngineFits t := by
  cases h with
  | idle he hc hh => exact .idle (hengine.trans he) (hclaim.trans hc) (fun k => hh (hheld.1 k))
  | waiting hs hc hh hr hw =>
    exact .waiting (hengine ▸ hs) (hclaim.trans hc) (fun k => hh (hheld.1 k)) (hdevice.trans hr)
      (hw.congr hengine hdirectory hcounters)
  | programming hs hc hh hr hw =>
    exact .programming (hengine ▸ hs) (hclaim.trans hc) (hheld.2 hh) (hdevice.trans hr)
      (hw.congr hengine hdirectory hcounters)

theorem EngineFits.core {s t : State} (h : EngineFits s) (k : SameCore s t) : EngineFits t :=
  h.congr k.engine (by rw [k.arbiter]) (by rw [k.arbiter]) k.device k.directory k.counters

/-! ### The invariant is its parts -/

/-- The invariant, but for the array, the rings and the cut pulse. -/
structure Fits (s : State) : Prop where
  blocks : BlocksFit s
  engine : EngineFits s
  ports : PortsFit s

theorem carries_resting {s : State} (h : s.engine = Engine.resting) :
    directoryRoom s = true ∧ counterBound s = true ∧ s.engine.job.all (fun j => kindInRange j.kind) = true ∧
      s.engine.seq.all (fun q => decide (q.word < 16384)) = true ∧ workInArray s.engine.work = true := by
  unfold directoryRoom counterBound
  rw [h]
  exact ⟨rfl, rfl, rfl, rfl, rfl⟩

theorem EngineFits.held {s : State} (h : EngineFits s) :
    directoryRoom s = true ∧ counterBound s = true ∧ s.engine.job.all (fun j => kindInRange j.kind) = true ∧
      s.engine.seq.all (fun q => decide (q.word < 16384)) = true ∧ workInArray s.engine.work = true := by
  cases h with
  | idle he => exact carries_resting he
  | waiting _ _ _ _ k => exact ⟨k.room, k.bound, k.kind, k.word, k.work⟩
  | programming _ _ _ _ k => exact ⟨k.room, k.bound, k.kind, k.word, k.work⟩

theorem EngineFits.ok {s : State} (h : EngineFits s) : EngineOk s := by
  cases h with
  | idle he hc hh =>
    refine ⟨fun _ => he, ?_, ?_, ?_, ?_, ?_⟩ <;> simp [he, hc, hh, Engine.resting]
  | waiting hs hc hh _ k =>
    refine ⟨?_, fun _ => k.busy, ?_, ?_, ?_, ?_⟩ <;> simp [hs, hc, hh]
  | programming hs hc hh _ k =>
    refine ⟨?_, fun _ => k.busy, ?_, ?_, ?_, ?_⟩ <;> simp [hs, hc, hh]

theorem EngineFits.resting {s : State} (h : EngineFits s) (hd : s.device = .mounting) : s.engine = Engine.resting := by
  cases h with
  | idle he => exact he
  | waiting _ _ _ hr => rw [hr] at hd; cases hd
  | programming _ _ _ hr => rw [hr] at hd; cases hd

/-- The invariant's parts are the blocks, the engine and the ports, beside the array, the rings and the cut pulse. -/
theorem Inv.fits {s : State} (h : Inv s) : Fits s := by
  obtain ⟨-, ⟨hidle, hbusy, hchecking, hfinishing, hclaim, hheld⟩, ⟨haudit, hreaders, hdecided⟩, ⟨hquota, hqueue⟩,
    ⟨hsorted, hentries, htable, hroom⟩, -, hpolicy, hlines, ⟨hphase, hstill, hrst, hsupply⟩, -, hbound,
    ⟨happend, hcursor, hspans, htableSpans, hrepair, hstrips, hkinds, hkind, hword, hwork, hreads⟩⟩ := h
  have hblocks : BlocksFit s :=
    { audit := haudit, apart := fun p => (hreaders p (mem_allPorts p)).2.1, decided := hdecided, queue := hqueue
      kinds := hkinds, sorted := hsorted, entries := hentries, spans := hspans, table := htable
      tableSpans := htableSpans, policy := hpolicy, append := happend, cursor := hcursor, repair := hrepair
      strips := hstrips, reads := hreads, phase := hphase, rst := hrst, supply := hsupply
      still := fun hd => have ⟨_, hjobs, hrun, hnone, hclaims, _⟩ := hstill hd; ⟨hjobs, hrun, hnone, hclaims⟩ }
  refine ⟨hblocks, ?engine, fun p => ?port⟩
  case engine =>
    have hclaimFalse : s.engine.state ≠ .waiting → s.arbiter.claims.engine = false := fun hs =>
      Bool.eq_false_iff.2 fun hc => hs (hclaim.1 hc)
    have hcarries : s.engine.state ≠ .idle → Carries s := fun hs => ⟨hbusy hs, hroom, hbound, hkind, hword, hwork⟩
    have hready : s.engine.state ≠ .idle → s.device = .ready := fun hs =>
      device_ready_of_not_mounting fun hd => hs (by rw [(hstill hd).1]; rfl)
    cases hs : s.engine.state with
    | idle =>
      exact .idle (hidle hs) (hclaimFalse (by rw [hs]; decide)) fun hh => by have h := hs.symm.trans (hheld.1 hh); cases h
    | checking => exact absurd hs hchecking
    | finishing => exact absurd hs hfinishing
    | waiting =>
      have hne : s.engine.state ≠ .idle := by rw [hs]; decide
      exact .waiting hs (hclaim.2 hs) (fun hh => by have h := hs.symm.trans (hheld.1 hh); cases h)
        (hready hne) (hcarries hne)
    | programming =>
      have hne : s.engine.state ≠ .idle := by rw [hs]; decide
      exact .programming hs (hclaimFalse (by rw [hs]; decide)) (hheld.2 hs) (hready hne) (hcarries hne)
  case port =>
    obtain ⟨hslot, -, hreply⟩ := hreaders p (mem_allPorts p)
    obtain ⟨hout, hmost, hshare⟩ := hquota p (mem_allPorts p)
    exact ⟨hslot, hreply, hout, hmost, hshare, fun hd => hlines hd p (mem_allPorts p),
      fun hd => have ⟨_, _, _, _, _, hquiet⟩ := hstill hd; hquiet p (mem_allPorts p)⟩

theorem Fits.inv {s : State} (h : Fits s) (hwf : Memory.wf s.array = true) (hrings : RingsOk s) (hcut : CutOk s) :
    Inv s := by
  obtain ⟨b, e, ports⟩ := h
  obtain ⟨hroom, hbound, hkind, hword, hwork⟩ := e.held
  refine ⟨hwf, e.ok, ⟨b.audit, fun p _ => ⟨(ports p).slot, b.apart p, (ports p).reply⟩, b.decided⟩,
    ⟨fun p _ => ⟨(ports p).outstanding, (ports p).most, (ports p).share⟩, b.queue⟩,
    ⟨b.sorted, b.entries, b.table, hroom⟩, hrings, b.policy, fun hd p _ => (ports p).line hd,
    ⟨b.phase, fun hd => ?_, b.rst, b.supply⟩, hcut, hbound,
    ⟨b.append, b.cursor, b.spans, b.tableSpans, b.repair, b.strips, b.kinds, hkind, hword, hwork, b.reads⟩⟩
  obtain ⟨hjobs, hrun, hnone, hclaims⟩ := b.still hd
  exact ⟨e.resting hd, hjobs, hrun, hnone, hclaims, fun p _ => (ports p).quiet hd⟩

/-! ### What a READY part never lowers -/

/-- No counter's value is lower in `t`, and no mark of the copy is out of force (laws L5 and L7). -/
def Rises (s t : State) : Prop :=
  (∀ c, (counterEntry s c).value ≤ (counterEntry t c).value) ∧
    ∀ i ∈ List.range 38, copyWord s i &&& ~~~ copyWord t i = 0#32

theorem and_not_trans {w : Nat} {a b c : BitVec w} (hab : a &&& ~~~ b = 0#w) (hbc : b &&& ~~~ c = 0#w) :
    a &&& ~~~ c = 0#w := by
  rw [and_not_eq_zero_iff] at *
  exact fun i hi => hbc i (hab i hi)

theorem Rises.refl (s : State) : Rises s s := ⟨fun _ => Nat.le_refl _, fun _ _ => BitVec.and_not_self _⟩

theorem Rises.trans {s t u : State} (h : Rises s t) (k : Rises t u) : Rises s u :=
  ⟨fun c => Nat.le_trans (h.1 c) (k.1 c), fun i hi => and_not_trans (h.2 i hi) (k.2 i hi)⟩

theorem Rises.of_eq {s t : State} (hcounters : t.counters = s.counters) (hpolicy : t.policy = s.policy) : Rises s t :=
  ⟨fun c => by rw [counterEntry_congr hcounters], fun i _ => by rw [copyWord_congr hpolicy]; exact BitVec.and_not_self _⟩

end Sys2Proof.Machine
end

section
/-! An event of the engine keeps the invariant, part one: what holds while a job is in hand within the event, what holds
at its end, and each operation the engine's decisions are made of. -/

namespace Sys2Proof.Machine

/-! ### The blocks through an event -/

theorem BlocksFit.withEngine {s : State} (h : BlocksFit s) (e : Engine) : BlocksFit { s with engine := e } :=
  ⟨h.audit, h.apart, h.decided, h.queue, h.kinds, h.sorted, h.entries, h.spans, h.table, h.tableSpans, h.policy,
    h.append, h.cursor, h.repair, h.strips, h.reads, h.phase, h.still, h.rst, h.supply⟩

theorem BlocksFit.withLog {s : State} (h : BlocksFit s) {l : LogAllocator} (happend : l.appendPoint ≤ 16384)
    (hcursor : l.stripCursor ≤ 512) : BlocksFit { s with log := l } :=
  ⟨h.audit, h.apart, h.decided, h.queue, h.kinds, h.sorted, h.entries, h.spans, h.table, h.tableSpans, h.policy,
    happend, hcursor, h.repair, h.strips, h.reads, h.phase, h.still, h.rst, h.supply⟩

theorem BlocksFit.withCounters {s : State} (h : BlocksFit s) {counters : List CounterEntry}
    (hstrips : ∀ e ∈ counters, e.strip.all (fun n => decide (n < 512)) = true) :
    BlocksFit { s with counters := counters } :=
  ⟨h.audit, h.apart, h.decided, h.queue, h.kinds, h.sorted, h.entries, h.spans, h.table, h.tableSpans, h.policy,
    h.append, h.cursor, h.repair, hstrips, h.reads, h.phase, h.still, h.rst, h.supply⟩

theorem BlocksFit.withDirectory {s : State} (h : BlocksFit s) {d : List DirEntry}
    (hsorted : d.Pairwise (fun x y => x.key < y.key)) (hentries : d.length ≤ 1024)
    (hspans : ∀ e ∈ d, spanInArray e.location e.w = true) : BlocksFit { s with directory := d } :=
  ⟨h.audit, h.apart, h.decided, h.queue, h.kinds, hsorted, hentries, hspans, h.table, h.tableSpans, h.policy,
    h.append, h.cursor, h.repair, h.strips, h.reads, h.phase, h.still, h.rst, h.supply⟩

theorem BlocksFit.withPolicy {s : State} (h : BlocksFit s) {policy : List Word}
    (hpolicy : PolicyOk { s with policy := policy }) : BlocksFit { s with policy := policy } :=
  ⟨h.audit, h.apart, h.decided, h.queue, h.kinds, h.sorted, h.entries, h.spans, h.table, h.tableSpans, hpolicy,
    h.append, h.cursor, h.repair, h.strips, h.reads, h.phase, h.still, h.rst, h.supply⟩

theorem BlocksFit.withRepair {s : State} (h : BlocksFit s) {r : RepairList} (hrepair : ∀ e ∈ r.entries, e.word < 16384) :
    BlocksFit { s with repair := r } :=
  ⟨h.audit, h.apart, h.decided, h.queue, h.kinds, h.sorted, h.entries, h.spans, h.table, h.tableSpans, h.policy,
    h.append, h.cursor, hrepair, h.strips, h.reads, h.phase, h.still, h.rst, h.supply⟩

/-! ### A claim entered (R16, R17) -/

/-- The claimant chosen for a free array has a claim pending (Table 1-12). -/
theorem chooseClaimant_pending {a : Arbiter} {who : Claimant} (h : chooseClaimant a = some who) :
    claimPending a.claims who = true := by
  have hreader : ∀ p, chooseReader a = some p → claimPending a.claims (.reader p) = true := fun p hp =>
    List.find?_some (p := fun p => claimPending a.claims (.reader p)) hp
  unfold chooseClaimant at h
  split at h
  · next hengine _ => cases h; exact hengine
  · next p _ hp => cases h; exact hreader p hp
  · next p hengine hp =>
    split at h
    · cases h; exact hreader p hp
    · cases h; exact hengine
  · split at h
    · next haudit => cases h; exact haudit
    · cases h

theorem claimPending_markClaim_mono {c : Claims} {x : Claimant} (h : claimPending c x = true) (who : Claimant) :
    claimPending (markClaim c who true) x = true := by
  by_cases hx : x = who
  · subst hx; exact claimPending_markClaim_same c x true
  · rw [claimPending_markClaim_other c true hx]; exact h

/-- A claim's entry decides at most a grant of the free array to a pending claim (R17). -/
theorem decidedOk_enterClaim {s : State} (h : DecidedOk s) (who : Claimant) : DecidedOk (enterClaim who s) := by
  have hsome : ∀ x, (claimEntered who s.arbiter).decided = some x →
      s.arbiter.holder = .none ∧ claimPending (markClaim s.arbiter.claims who true) x = true := by
    intro x hx
    rw [claimEntered_decided] at hx
    split at hx
    · next hfree => exact ⟨hfree.1, claimPending_markClaim_mono (chooseClaimant_pending hx) who⟩
    · rw [DecidedOk, hx] at h
      simp only [Option.all_some, Bool.and_eq_true, decide_eq_true_eq] at h
      exact ⟨h.1, claimPending_markClaim_mono h.2 who⟩
  unfold DecidedOk
  rw [enterClaim_arbiter]
  cases hd : (claimEntered who s.arbiter).decided with
  | none => rfl
  | some x =>
    obtain ⟨hfree, hpending⟩ := hsome x hd
    simp [hfree, hpending]

theorem BlocksFit.claimEngine {s : State} (h : BlocksFit s) (hready : s.device = .ready) :
    BlocksFit (enterClaim .engine s) :=
  have hready' : s.device ≠ .mounting := by rw [hready]; decide
  ⟨h.audit, (fun p => by cases p; exacts [h.apart .a, h.apart .b, h.apart .c]), decidedOk_enterClaim h.decided .engine,
    h.queue, h.kinds, h.sorted, h.entries, h.spans, h.table, h.tableSpans, h.policy, h.append, h.cursor, h.repair,
    h.strips, h.reads, h.phase, fun hd => absurd hd hready', h.rst, h.supply⟩

/-! ### Within an event -/

/-- `s` is met in an event that found `s0`: job `j` is in hand, nothing claimed for it, and all but the engine fits. -/
structure InEvent (s0 s : State) (j : Job) : Prop where
  job : s.engine.job = some j
  repair : s.engine.repair = none
  kind : kindInRange j.kind = true
  ready : s.device = .ready
  claim : s.arbiter.claims.engine = false
  holder : s.arbiter.holder = s0.arbiter.holder
  blocks : BlocksFit s
  ports : PortsFit s
  rises : Rises s0 s

/-- The event that found `s0` has come to its end in `t`, the array not released: the engine is IDLE, or WAITING with a
sequence in hand, and all else fits. -/
structure Settled (s0 t : State) : Prop where
  engine : (t.engine = Engine.resting ∧ t.arbiter.claims.engine = false) ∨
    (t.engine.state = .waiting ∧ t.arbiter.claims.engine = true ∧ Carries t)
  ready : t.device = .ready
  holder : t.arbiter.holder = s0.arbiter.holder
  blocks : BlocksFit t
  ports : PortsFit t
  rises : Rises s0 t

/-- With the array not held by the engine, an event's end fits. -/
theorem Settled.fits {s0 t : State} (h : Settled s0 t) (hheld : s0.arbiter.holder ≠ .engine) : Fits t := by
  refine ⟨h.blocks, ?_, h.ports⟩
  rcases h.engine with ⟨he, hc⟩ | ⟨hs, hc, hk⟩
  · exact .idle he hc (h.holder ▸ hheld)
  · exact .waiting hs hc (h.holder ▸ hheld) h.ready hk

/-- A record job found its key's entry, or room for one (R68). -/
def RoomFor (d : List DirEntry) (j : Job) : Prop :=
  ∀ key kind payload, recordFields j.kind = some (key, kind, payload) →
    (dirFind d key).isSome = true ∨ d.length < 1024

theorem roomFor_of_directoryRoom {s : State} {j : Job} (hjob : s.engine.job = some j) :
    directoryRoom s = true ↔ RoomFor s.directory j := by
  unfold directoryRoom RoomFor
  rw [hjob, Option.all_some]
  cases hf : recordFields j.kind with
  | none => simp
  | some f => obtain ⟨key, kind, payload⟩ := f; simp

theorem roomFor_of_no_record {d : List DirEntry} {j : Job} (h : recordFields j.kind = none) : RoomFor d j := by
  intro key kind payload hf
  rw [h] at hf
  cases hf

/-- A change of the policy word at a port: its notice may arrive, and a port that comes into LEVEL mode has its pulse
ended and its line judged (R109). -/
theorem PortFits.remarked {busy old new : Bool} {work : Nat} {device : DeviceState} {q changed : PortState}
    (h : PortFits busy work old device q) (hready : device = .ready) (hmode : old = true → new = true)
    (hchanged : changed = q ∨ ∃ n, changed = Machine.noticed new n q) :
    PortFits busy work new device
      (if new = true ∧ old = false then { changed with pulseActive := false, lineLow := workWaiting changed }
      else changed) := by
  subst hready
  have hcounts : changed.slot = q.slot ∧ changed.reply = q.reply ∧ changed.outstanding = q.outstanding ∧
      changed.results = q.results := by
    rcases hchanged with rfl | ⟨n, rfl⟩
    · exact ⟨rfl, rfl, rfl, rfl⟩
    · exact noticed_counts new n q
  obtain ⟨hslot, hreply, hout, hres⟩ := hcounts
  by_cases hentered : new = true ∧ old = false
  · rw [if_pos hentered]
    refine h.withLine hslot hreply hout hres ⟨fun _ => ⟨rfl, rfl⟩, fun hn => ?_⟩
    rw [hentered.1] at hn
    cases hn
  · rw [if_neg hentered]
    have hsame : old = new := by
      cases old <;> cases new
      · rfl
      · exact absurd ⟨rfl, rfl⟩ hentered
      · exact absurd (hmode rfl) (by decide)
      · rfl
    subst hsame
    rcases hchanged with rfl | ⟨n, rfl⟩
    · exact h
    · exact h.noticed n

namespace InEvent

variable {s0 s : State} {j : Job}

theorem withWork (h : InEvent s0 s j) (w : Work) : InEvent s0 (setWork w s) j where
  job := h.job
  repair := h.repair
  kind := h.kind
  ready := h.ready
  claim := h.claim
  holder := h.holder
  blocks := h.blocks.withEngine _
  ports := h.ports.congr ⟨fun _ => rfl, fun _ => rfl, rfl, rfl⟩ (fun p => by simp)
  rises := h.rises

theorem withLog (h : InEvent s0 s j) {l : LogAllocator} (happend : l.appendPoint ≤ 16384) (hcursor : l.stripCursor ≤ 512) :
    InEvent s0 { s with log := l } j where
  job := h.job
  repair := h.repair
  kind := h.kind
  ready := h.ready
  claim := h.claim
  holder := h.holder
  blocks := h.blocks.withLog happend hcursor
  ports := h.ports.congr ⟨fun _ => rfl, fun _ => rfl, rfl, rfl⟩ (fun p => by cases p <;> rfl)
  rises := h.rises

/-- The job ends: its result is delivered and the engine rests (R37). -/
theorem finish (h : InEvent s0 s j) (code : Code) (weak : Bool) : Settled s0 (finish code weak s) := by
  obtain ⟨hblocks, hports⟩ := finish_blocks h.job code weak
  refine ⟨.inl ⟨hblocks.engine, by rw [hblocks.arbiter]; exact h.claim⟩, hblocks.device.trans h.ready,
    by rw [hblocks.arbiter]; exact h.holder, (h.blocks.withEngine Engine.resting).congr hblocks.core, fun p => ?_,
    h.rises.trans (.of_eq hblocks.counters hblocks.policy)⟩
  have hnotices : PortFitsAt s p ((finishNotices j s).port p) := by
    unfold finishNotices
    have hposted : ∀ n, PortFitsAt s p ((postNotice n s).port p) := by
      intro n
      rw [port_postNotice]
      split
      · have hfit := h.ports p
        unfold PortFitsAt at hfit ⊢
        rw [h.ready] at hfit ⊢
        rw [port_arriveNotice_noticed]
        exact hfit.noticed n
      · exact h.ports p
    split
    · split
      · exact hposted _
      · exact h.ports p
    all_goals exact h.ports p
  have hdevice : (Machine.finish code weak s).device = .ready := hblocks.device.trans h.ready
  have hlevel : levelMode (Machine.finish code weak s) p = levelMode s p := levelMode_congr hblocks.policy p
  have hwork : outstandingWork s p = outstandingWork (Machine.finish code weak s) p + if p = j.port then 1 else 0 := by
    have hjobs := hblocks.jobs
    have haudit := hblocks.audit
    have hengine := hblocks.engine
    simp only [outstandingWork, hjobs, haudit, hengine, h.job, Engine.resting]
    by_cases hp : p = j.port
    · subst hp
      simp only [Option.any_some, Option.any_none, BEq.rfl, if_true, Bool.false_eq_true, if_false]
      omega
    · have hne : (j.port == p) = false := beq_eq_false_iff_ne.2 fun k => hp k.symm
      simp [hp, hne]
  unfold PortFitsAt at hnotices ⊢
  rw [h.ready] at hnotices
  rw [hports p, hdevice, hlevel, hblocks.arbiter]
  by_cases hp : p = j.port
  · rw [if_pos hp] at hwork ⊢
    rw [hwork] at hnotices
    exact hnotices.jobEnded _ _
  · rw [if_neg hp] at hwork ⊢
    rw [hwork] at hnotices
    exact hnotices

theorem abandon (h : InEvent s0 s j) : Settled s0 (abandon s) := by
  rcases abandon_eq s with e | e
  · rw [e]; exact h.finish _ _
  · rw [e]; exact h.finish _ _

/-- PGM_EN is sampled: high goes on, low abandons (R33). -/
theorem sampled (h : InEvent s0 s j) {go : State → State} (hgo : Settled s0 (go s)) : Settled s0 (sampled go s) := by
  unfold Machine.sampled
  split
  · exact hgo
  · exact h.abandon

/-- A sequence is prepared for the job, its claim entered (R33). -/
theorem prepared (h : InEvent s0 s j) {w : Work} {word : Nat} {target : Word} (hword : word < 16384)
    (hfits : workFits ⟨.waiting, some j, none, w, some ⟨word, target, 0, 0#32, false⟩⟩ j = true)
    (hwork : workInArray w = true) (hbound : counterBound (setWork w s) = true) (hroom : RoomFor s.directory j) :
    Settled s0 (prepare word target (setWork w s)) := by
  have heq := prepare_setWork_eq h.job h.repair w word target
  have hengine : (prepare word target (setWork w s)).engine =
      ⟨.waiting, some j, none, w, some ⟨word, target, 0, 0#32, false⟩⟩ := by rw [heq]
  refine ⟨.inr ⟨by rw [hengine], rfl, ?carries⟩, h.ready, h.holder, ?blocks, ?ports, h.rises⟩
  case carries =>
    refine ⟨?_, ?_, hbound, ?_, ?_, ?_⟩
    · rw [hengine]
      simpa [engineBusy] using hfits
    · exact (roomFor_of_directoryRoom (by rw [hengine])).2 hroom
    · rw [hengine]; simpa using h.kind
    · rw [hengine]; simpa using hword
    · rw [hengine]; exact hwork
  case blocks =>
    exact BlocksFit.claimEngine
      (h.blocks.withEngine { s.engine with work := w, state := .waiting, seq := some ⟨word, target, 0, 0#32, false⟩ })
      h.ready
  case ports =>
    exact h.ports.congr ⟨fun p => by cases p <;> rfl, fun _ => rfl, rfl, rfl⟩ (fun p => by simp)

/-! ### The tables -/

theorem counterEntry_setCounter_cases (s : State) (e : CounterEntry) :
    counterEntry (setCounter e s) e.id = e ∨ counterEntry (setCounter e s) e.id = counterEntry s e.id := by
  cases hf : s.counters.find? (fun x => x.id == e.id) with
  | some x => exact .inl (counterEntry_setCounter_same (by rw [hf]; rfl))
  | none =>
    right
    simp only [counterEntry, setCounter, find_setCounter, hf, Option.map_none]

/-- A counter's entry is replaced by one of a strip of the pool and no lower value (R87, R91). -/
theorem withCounter (h : InEvent s0 s j) {e : CounterEntry} (hstrip : e.strip.all (fun n => decide (n < 512)) = true)
    (hvalue : (counterEntry s e.id).value ≤ e.value) : InEvent s0 (setCounter e s) j where
  job := h.job
  repair := h.repair
  kind := h.kind
  ready := h.ready
  claim := h.claim
  holder := h.holder
  blocks := by
    refine h.blocks.withCounters fun x hx => ?_
    obtain ⟨y, hy, rfl⟩ := List.mem_map.1 hx
    split
    · exact hstrip
    · exact h.blocks.strips y hy
  ports := h.ports.congr ⟨fun _ => rfl, fun _ => rfl, rfl, rfl⟩ (fun p => by simp)
  rises := by
    refine h.rises.trans ⟨fun c => ?_, fun i _ => BitVec.and_not_self _⟩
    by_cases hc : c = e.id
    · subst hc
      rcases counterEntry_setCounter_cases s e with hs | hs
      · rw [hs]; exact hvalue
      · rw [hs]
    · rw [counterEntry_setCounter_other s hc]

theorem mem_dirPut {e x : DirEntry} : ∀ {d : List DirEntry}, x ∈ dirPut d e → x = e ∨ x ∈ d
  | [], h => .inl (List.mem_singleton.1 h)
  | y :: rest, h => by
    unfold dirPut at h
    split at h
    · exact List.mem_cons.1 h
    · split at h
      · exact (List.mem_cons.1 h).imp_right (List.mem_cons_of_mem _)
      · rcases List.mem_cons.1 h with rfl | h
        · exact .inr (List.mem_cons_self ..)
        · exact (mem_dirPut h).imp_right (List.mem_cons_of_mem _)

/-- A directory with the key's entry or room for one takes the entry (R66, R68). -/
theorem length_dirPut_of_room {d : List DirEntry} (hd : d.Pairwise (fun x y => x.key < y.key)) (hlen : d.length ≤ 1024)
    {e : DirEntry} (hroom : (dirFind d e.key).isSome = true ∨ d.length < 1024) : (dirPut d e).length ≤ 1024 := by
  rcases hroom with hsome | hlt
  · rw [length_dirPut_of_isSome hd hsome]; exact hlen
  · exact Nat.le_trans (length_dirPut_le d e) hlt

/-- The commit point: the directory takes the entry and the notice is posted (R57). -/
theorem commitPoint (h : InEvent s0 s j) (hroom : RoomFor s.directory j) {key : Nat} {kind : RecordKind}
    {payload : List Byte} (hfields : recordFields j.kind = some (key, kind, payload)) {sp : Span}
    (hsp : spanInArray sp.location sp.w = true) :
    InEvent s0 (commitPoint key kind j sp s) j ∧ RoomFor (Machine.commitPoint key kind j sp s).directory j := by
  have same := sameBlocks_commitPoint key kind j sp s
  have hcore : SameCore { s with directory := dirPut s.directory (committedEntry key kind j sp) }
      (Machine.commitPoint key kind j sp s) := same.core
  have hdirectory : BlocksFit { s with directory := dirPut s.directory (committedEntry key kind j sp) } := by
    refine h.blocks.withDirectory (pairwise_dirPut h.blocks.sorted _)
      (length_dirPut_of_room h.blocks.sorted h.blocks.entries (hroom key kind payload hfields)) fun x hx => ?_
    rcases mem_dirPut hx with rfl | hx
    · exact hsp
    · exact h.blocks.spans x hx
  refine ⟨⟨(congrArg Engine.job same.engine).trans h.job, (congrArg Engine.repair same.engine).trans h.repair, h.kind,
    same.device.trans h.ready, ?_, ?_, hdirectory.congr hcore, fun p => ?_,
    h.rises.trans (.of_eq same.counters same.policy)⟩, ?_⟩
  · rw [same.arbiter]; exact h.claim
  · rw [same.arbiter]; exact h.holder
  · have hfit := h.ports p
    refine PortFitsAt.congr (s := s) ?_ ⟨fun p => by rw [same.arbiter],
      outstandingWork_congr same.jobs (congrArg Engine.job same.engine) same.audit, same.policy, same.device⟩
    unfold PortFitsAt at hfit ⊢
    rw [h.ready] at hfit ⊢
    rw [port_commitPoint]
    split
    · exact hfit.noticed _
    · exact hfit
  · intro key' kind' payload' hfields'
    rw [hfields] at hfields'
    cases hfields'
    left
    rw [same.directory]
    exact Option.isSome_iff_exists.2 ⟨_, dirFind_dirPut_same s.directory (committedEntry key kind j sp)⟩

/-- The alert-level marks that were in force are in force after the word of the copy has risen. -/
theorem alertLevel_rises {s : State} {word : Nat} (hword : word < s.policy.length) {v : Word}
    (hrise : copyWord s word &&& ~~~ v = 0#32) {p : Port} (h : alertLevel s p = true) :
    alertLevel { s with policy := s.policy.set word v } p = true := by
  unfold alertLevel at h ⊢
  rw [copyWord_set hword]
  split
  · next hw =>
    subst hw
    exact (and_not_eq_zero_iff _ _).1 hrise ⟨portIndex p, by cases p <;> decide⟩ h
  · exact h

/-- The policy unit's update, its word having risen to what the array reads (R109). -/
theorem policyUpdate (h : InEvent s0 s j) {word : Nat} (hword : word < 38) {v : Word}
    (hread : v = readNormal s.array word) : InEvent s0 (policyUpdate j word v s) j := by
  have same := sameBlocks_policyUpdate j word v s
  have hphase : s.mount.phase ≠ .options := by rw [h.blocks.phase.1 h.ready]; decide
  obtain ⟨hlength, hmarks⟩ := h.blocks.policy hphase
  have hlt : word < s.policy.length := by omega
  have hrise : copyWord s word &&& ~~~ v = 0#32 := hread ▸ hmarks word (List.mem_range.2 hword)
  have hpolicy : PolicyOk { s with policy := s.policy.set word v } := by
    intro _
    refine ⟨by simpa using hlength, fun i hi => ?_⟩
    rw [copyWord_set hlt]
    split
    · next hi => subst hi; rw [hread]; exact BitVec.and_not_self _
    · exact hmarks i hi
  refine ⟨(congrArg Engine.job same.engine).trans h.job, (congrArg Engine.repair same.engine).trans h.repair, h.kind,
    same.device.trans h.ready, ?_, ?_, (h.blocks.withPolicy hpolicy).congr same.core, fun p => ?_, ?_⟩
  · rw [same.arbiter]; exact h.claim
  · rw [same.arbiter]; exact h.holder
  · have hfit := h.ports p
    refine PortFitsAt.congr (s := { s with policy := s.policy.set word v }) ?_ same.core.demands
    unfold PortFitsAt at hfit ⊢
    rw [port_policyUpdate hlt j v p _ rfl]
    refine hfit.remarked h.ready (alertLevel_rises hlt hrise) ?_
    split
    · exact .inl rfl
    · exact .inr ⟨_, rfl⟩
  · refine h.rises.trans ⟨fun c => ?_, fun i hi => ?_⟩
    · rw [counterEntry_congr same.counters]
      exact Nat.le_refl _
    rw [copyWord_congr same.policy, copyWord_set hlt]
    split
    · next hi => subst hi; exact hrise
    · exact BitVec.and_not_self _

end InEvent

end Sys2Proof.Machine
end

section
/-! An event of the engine keeps the invariant, part two: APPEND and DELETE (chapter 3). -/

namespace Sys2Proof.Machine

/-! ### The words of a span (Table 3-1) -/

/-- The previous record's words exist. -/
def PreviousFits (w : RecordWork) : Prop := w.previous.all (fun q => spanInArray q.location q.w) = true

theorem spanInArray_iff (h w : Nat) : spanInArray h w = true ↔ h + 4 + w < 16384 := decide_eq_true_iff

/-- Every word of a span that fits exists, payload words within its payload, and so does the previous record's. -/
theorem recordIndex_lt {sp : Span} (hsp : spanInArray sp.location sp.w = true) {w : RecordWork} (hprev : PreviousFits w)
    {next : RecordWord} (hpayload : ∀ i, next = .payload i → i < sp.w) : recordIndex sp w.previous next < 16384 := by
  rw [spanInArray_iff] at hsp
  cases next with
  | header => simp only [recordIndex]; omega
  | sequence => simp only [recordIndex]; omega
  | payload i => have := hpayload i rfl; simp only [recordIndex]; omega
  | check => simp only [recordIndex, checkIndex]; omega
  | commit => simp only [recordIndex, commitIndex]; omega
  | selfRetire => simp only [recordIndex, retireIndex]; omega
  | retire =>
    unfold PreviousFits at hprev
    cases hq : w.previous with
    | none => simp [recordIndex]
    | some q =>
      rw [hq, Option.all_some, spanInArray_iff] at hprev
      simp only [recordIndex, retireIndex, Option.map_some, Option.getD_some]
      omega

/-- The word after a verified one is a payload word only within the payload (R54). -/
theorem followingWord_payload {sp : Span} {next : RecordWord} {i : Nat} (h : followingWord sp next = .payload i) :
    i < sp.w := by
  cases next with
  | header => cases h
  | sequence =>
    change (if sp.w = 0 then RecordWord.check else .payload 0) = .payload i at h
    split at h
    · cases h
    · cases h; omega
  | payload k =>
    change (if k + 1 < sp.w then RecordWord.payload (k + 1) else .check) = .payload i at h
    split at h
    · cases h; assumption
    · cases h
  | check | commit | selfRetire | retire => cases h

/-! ### A record job within an event -/

/-- A record job is in hand, with an entry of its key in the directory, or room for one. -/
structure RecordEvent (s0 s : State) (j : Job) : Prop extends InEvent s0 s j where
  fields : (recordFields j.kind).isSome = true
  room : RoomFor s.directory j

namespace RecordEvent

variable {s0 s : State} {j : Job}

theorem withWork (h : RecordEvent s0 s j) (w : Work) : RecordEvent s0 (setWork w s) j :=
  ⟨h.toInEvent.withWork w, h.fields, h.room⟩

theorem withLog (h : RecordEvent s0 s j) {l : LogAllocator} (happend : l.appendPoint ≤ 16384)
    (hcursor : l.stripCursor ≤ 512) : RecordEvent s0 { s with log := l } j :=
  ⟨h.toInEvent.withLog happend hcursor, h.fields, h.room⟩

/-- A word of the current span is prepared (R54). -/
theorem prepareWord (h : RecordEvent s0 s j) {w : RecordWork} {sp : Span} (hspan : w.span = some sp)
    (hsp : spanInArray sp.location sp.w = true) (hprev : PreviousFits w) {next : RecordWord}
    (hpayload : ∀ i, next = .payload i → i < sp.w) : Settled s0 (prepareRecordWord w sp next s) := by
  refine h.prepared (recordIndex_lt hsp hprev hpayload) ?_ ?_ rfl h.room
  · simp [workFits, hspan, h.fields]
  · unfold PreviousFits at hprev
    simp [workInArray, hspan, hsp, hprev]

/-- An attempt begins (R53, R59). -/
theorem beginAttempt (h : RecordEvent s0 s j) {w : RecordWork} (hprev : PreviousFits w) :
    Settled s0 (beginAttempt w j s) := by
  have hfields := h.fields
  unfold Machine.beginAttempt
  split
  · next hnone => rw [hnone] at hfields; cases hfields
  · next key kind payload _ =>
    refine h.sampled ?_
    split
    · next hfit =>
      have hroom := ((spanFits_iff _ _).1 hfit).1
      have hallocated : RecordEvent s0 { s with log := { s.log with
          appendPoint := s.log.appendPoint + spanLength (buildSpan s.log key kind j.port payload).w
          nextSeq := s.log.nextSeq + 1 } } j :=
        h.withLog hroom h.blocks.cursor
      have hsp : spanInArray (buildSpan s.log key kind j.port payload).location
          (buildSpan s.log key kind j.port payload).w = true := by
        refine (spanInArray_iff _ _).2 ?_
        change s.log.appendPoint + 4 + payloadW payload.length < 16384
        omega
      exact hallocated.prepareWord (sp := buildSpan s.log key kind j.port payload) (next := .header)
        (w := { w with attempts := w.attempts + 1, span := some (buildSpan s.log key kind j.port payload) })
        rfl hsp hprev fun i hi => by cases hi
    · exact h.finish _ _

/-- After a failed attempt: a fresh one, or PROGRAM_FAIL (R59). -/
theorem relocate (h : RecordEvent s0 s j) {w : RecordWork} (hprev : PreviousFits w) : Settled s0 (relocate w j s) := by
  unfold Machine.relocate
  split
  · exact h.beginAttempt hprev
  · exact h.finish _ _

/-- The append point after a failed header stays in the array (Table 3-7). -/
theorem failedHeaderPoint_le {sp : Span} (hsp : spanInArray sp.location sp.w = true) (normal : Word) :
    failedHeaderPoint sp normal ≤ 16384 := by
  rw [spanInArray_iff] at hsp
  unfold failedHeaderPoint spanLength
  split
  · omega
  · split <;> omega

/-- The outcome of a header (R55). -/
theorem headerOutcome (h : RecordEvent s0 s j) {w : RecordWork} {sp : Span} (hspan : w.span = some sp)
    (hsp : spanInArray sp.location sp.w = true) (hprev : PreviousFits w) (o : SeqOutcome) :
    Settled s0 (headerOutcome w sp j o s) := by
  have hpoint : RecordEvent s0 (setAppendPoint (failedHeaderPoint sp o.normal) s) j :=
    h.withLog (failedHeaderPoint_le hsp o.normal) h.blocks.cursor
  unfold Machine.headerOutcome
  split
  · exact h.sampled (h.prepareWord hspan hsp hprev fun i hi => by cases hi)
  · exact hpoint.relocate hprev
  · exact hpoint.abandon

/-- The outcome of a sequence, payload or check word (R56). -/
theorem bodyOutcome (h : RecordEvent s0 s j) {w : RecordWork} {sp : Span} (hspan : w.span = some sp)
    (hsp : spanInArray sp.location sp.w = true) (hprev : PreviousFits w) (o : SeqOutcome) :
    Settled s0 (bodyOutcome w sp j o s) := by
  unfold Machine.bodyOutcome
  split
  · exact h.sampled (h.prepareWord hspan hsp hprev fun i hi => followingWord_payload hi)
  · exact h.relocate hprev
  · exact h.abandon

/-- The retire step of the previous record (R36, R60). -/
theorem retireStep (h : RecordEvent s0 s j) {w : RecordWork} {sp : Span} (hspan : w.span = some sp)
    (hsp : spanInArray sp.location sp.w = true) (hprev : PreviousFits w) : Settled s0 (retireStep w sp s) := by
  unfold Machine.retireStep
  split
  · exact h.finish _ _
  · split
    · exact h.prepareWord hspan hsp hprev fun i hi => by cases hi
    · exact (h.withWork _).finish _ _

/-- The outcome of a commit (R57, R58). -/
theorem commitOutcome (h : RecordEvent s0 s j) {w : RecordWork} {sp : Span} (hspan : w.span = some sp)
    (hsp : spanInArray sp.location sp.w = true) (hprev : PreviousFits w) (o : SeqOutcome) :
    Settled s0 (commitOutcome w sp j o s) := by
  have hfields := h.fields
  unfold Machine.commitOutcome
  split
  · split
    · next hnone => rw [hnone] at hfields; cases hfields
    · next key kind payload hsome =>
      obtain ⟨hcommit, hroom⟩ := h.commitPoint h.room hsome hsp
      have hprevious : PreviousFits { w with
          previous := (dirFind s.directory key).map (fun e => PreviousRecord.mk e.location e.w e.seq) } := by
        unfold PreviousFits
        dsimp only
        cases hf : dirFind s.directory key with
        | none => rfl
        | some e => exact h.blocks.spans e (List.mem_of_find?_eq_some hf)
      exact RecordEvent.retireStep ⟨hcommit, h.fields, hroom⟩ hspan hsp hprevious
  · split
    · exact h.sampled (h.prepareWord hspan hsp hprev fun i hi => by cases hi)
    · exact h.relocate hprev
  · exact h.abandon

/-- The outcome of a self-retire (R58). -/
theorem selfRetireOutcome (h : RecordEvent s0 s j) {w : RecordWork} (hprev : PreviousFits w) (o : SeqOutcome) :
    Settled s0 (selfRetireOutcome w j o s) := by
  unfold Machine.selfRetireOutcome
  split
  · exact h.relocate hprev
  · exact h.relocate hprev
  · exact h.abandon

/-- The outcome of a sequence of a record job (R55 to R60). -/
theorem outcome (h : RecordEvent s0 s j) {w : RecordWork} (hwork : workInArray (.record w) = true)
    (hspan : w.span.isSome = true) (o : SeqOutcome) : Settled s0 (recordOutcome w j o s) := by
  obtain ⟨hspans, hprev⟩ := Bool.and_eq_true_iff.1 hwork
  unfold Machine.recordOutcome
  split
  · next hnone => rw [hnone] at hspan; cases hspan
  · next sp hsome =>
    have hsp : spanInArray sp.location sp.w = true := by simpa [hsome] using hspans
    split
    · exact h.headerOutcome hsome hsp hprev o
    · exact h.bodyOutcome hsome hsp hprev o
    · exact h.bodyOutcome hsome hsp hprev o
    · exact h.bodyOutcome hsome hsp hprev o
    · exact h.commitOutcome hsome hsp hprev o
    · exact h.selfRetireOutcome hprev o
    · exact h.finish _ _

end RecordEvent

/-! ### The start of a record job -/

/-- An APPEND past its checks has its key's entry or room for one (R51, R68). -/
theorem room_of_appendRefusal {s : State} {key : Nat} {expected : Option Nat} {len : Nat}
    (h : appendRefusal s key expected len = none) :
    (dirFind s.directory key).isSome = true ∨ s.directory.length < 1024 := by
  unfold appendRefusal at h
  dsimp only at h
  split at h
  · cases h
  · split at h
    · cases h
    · next hfull =>
      rw [not_and_or, Option.isNone_iff_eq_none, Nat.not_le] at hfull
      exact hfull.imp_left Option.isSome_iff_ne_none.2

theorem isSome_of_deleteRefusal {s : State} {key : Nat} {expected : Option Nat}
    (h : deleteRefusal s key expected = none) : (dirFind s.directory key).isSome = true := by
  unfold deleteRefusal at h
  split at h
  · cases h
  · next hsome => rw [hsome]; rfl

theorem InEvent.startAppend {s0 s : State} {j : Job} (h : InEvent s0 s j) {key : Nat} {expected : Option Nat}
    {payload : List Byte} (hkind : j.kind = .append key expected payload) :
    Settled s0 (startAppend j key expected payload s) := by
  unfold Machine.startAppend
  split
  · exact h.finish _ _
  · next hnone =>
    have hroom : RoomFor s.directory j := fun _ _ _ hf => by
      rw [hkind] at hf
      cases hf
      exact room_of_appendRefusal hnone
    exact (RecordEvent.withWork ⟨h, by rw [hkind]; rfl, hroom⟩ _).beginAttempt rfl

theorem InEvent.startDelete {s0 s : State} {j : Job} (h : InEvent s0 s j) {key : Nat} {expected : Option Nat}
    (hkind : j.kind = .delete key expected) : Settled s0 (startDelete j key expected s) := by
  unfold Machine.startDelete
  split
  · exact h.finish _ _
  · next hnone =>
    have hroom : RoomFor s.directory j := fun _ _ _ hf => by
      rw [hkind] at hf
      cases hf
      exact .inl (isSome_of_deleteRefusal hnone)
    exact (RecordEvent.withWork ⟨h, by rw [hkind]; rfl, hroom⟩ _).beginAttempt rfl

end Sys2Proof.Machine
end

section
/-! An event of the engine keeps the invariant, part three: counter jobs, policy jobs, repairs, and the event as a whole
(chapters 1, 2, 5 and 6). -/

namespace Sys2Proof.Machine

/-! ### A thermometer step counts no more positions than it targets (R86, R87) -/

theorem countP_range_le {n lo len : Nat} {f : Nat → Bool} (h : ∀ i < n, f i = true → lo ≤ i ∧ i < lo + len) :
    (List.range n).countP f ≤ len := by
  have hsub : (List.range n).filter f ⊆ List.range' lo len := fun i hi => by
    obtain ⟨hr, hf⟩ := List.mem_filter.1 hi
    exact List.mem_range'_1.2 (h i (List.mem_range.1 hr) hf)
  have hle := (List.subperm_of_subset (List.nodup_range.filter f) hsub).length_le
  rw [List.countP_eq_length_filter]
  simpa using hle

/-- The targeted cells that read set are at most the positions of the step, so at most what remains. -/
theorem onesCount_stepCells_le (x : Word) (w : CounterWork) : onesCount (x &&& stepCells w) ≤ w.remaining := by
  refine countP_range_le (lo := w.nextPos % 32) fun i hi hset => ?_
  rw [BitVec.getLsbD_and, getLsbD_stepCells w hi] at hset
  obtain ⟨-, hstep⟩ := Bool.and_eq_true_iff.1 hset
  have := of_decide_eq_true hstep
  omega

theorem counterEntry_id (s : State) (c : Nat) : (counterEntry s c).id = c := by
  unfold counterEntry
  cases hf : s.counters.find? (fun e => e.id == c) with
  | none => rfl
  | some e => simpa using List.find?_some hf

/-- A counter's strip, when it has one, is of the pool. -/
theorem BlocksFit.strip_lt {s : State} (h : BlocksFit s) {c strip : Nat} (hstrip : (counterEntry s c).strip = some strip) :
    strip < 512 := by
  unfold counterEntry at hstrip
  cases hf : s.counters.find? (fun e => e.id == c) with
  | none => rw [hf] at hstrip; cases hstrip
  | some e =>
    rw [hf, Option.getD_some] at hstrip
    have := h.strips e (List.mem_of_find?_eq_some hf)
    simpa [hstrip] using this

theorem stripWord_lt {strip k : Nat} (hstrip : strip < 512) (hk : k < 8) : stripWord strip k < 16384 := by
  unfold stripWord Config.poolStart
  omega

/-! ### A counter job within an event -/

/-- A counter job with working state `w` is in hand: it can reach its target and no more (R84, R86). -/
structure CounterEvent (s0 s : State) (j : Job) (w : CounterWork) : Prop extends InEvent s0 s j where
  counter : jobCounter j.kind = some w.counter
  reach : (counterEntry s w.counter).value + w.remaining ≤ w.target
  target : w.target ≤ 16777215
  strip : ∀ o, w.opening = some o → o.1 < 512

namespace CounterEvent

variable {s0 s : State} {j : Job} {w : CounterWork}

theorem withWork (h : CounterEvent s0 s j w) (work : Work) : CounterEvent s0 (setWork work s) j w :=
  ⟨h.toInEvent.withWork work, h.counter, h.reach, h.target, h.strip⟩

theorem withLog (h : CounterEvent s0 s j w) {l : LogAllocator} (happend : l.appendPoint ≤ 16384)
    (hcursor : l.stripCursor ≤ 512) : CounterEvent s0 { s with log := l } j w :=
  ⟨h.toInEvent.withLog happend hcursor, h.counter, h.reach, h.target, h.strip⟩

/-- The counts of the working state move, its counter and target stay. -/
theorem withOpening (h : CounterEvent s0 s j w) {opening : Option (Nat × OpenStage)} (attempts : Nat)
    (hopening : ∀ o, opening = some o → o.1 < 512) :
    CounterEvent s0 s j { w with openAttempts := attempts, opening := opening } :=
  ⟨h.toInEvent, h.counter, h.reach, h.target, hopening⟩

/-- A sequence is prepared for the counter job (R33). -/
theorem prepared (h : CounterEvent s0 s j w) {word : Nat} (target : Word) (hword : word < 16384) :
    Settled s0 (prepare word target (setWork (.counter w) s)) := by
  refine h.toInEvent.prepared hword ?_ ?_ ?_ (roomFor_of_no_record ?_)
  · simp [workFits, h.counter]
  · simp only [workInArray]
    cases ho : w.opening with
    | none => rfl
    | some o => simpa using h.strip o ho
  · have hreach : (counterEntry (setWork (.counter w) s) w.counter).value + w.remaining ≤ w.target := h.reach
    simp only [counterBound, setWork_engine, Bool.and_eq_true, decide_eq_true_eq]
    exact ⟨hreach, h.target⟩
  · have hcounter := h.counter
    cases hk : j.kind <;> rw [hk] at hcounter <;> first | rfl | cases hcounter

theorem endShort (h : CounterEvent s0 s j w) (code : Code) : Settled s0 (endShort w code s) := by
  unfold Machine.endShort
  split
  · exact h.finish _ _
  · exact h.finish _ _

/-- The strip at the cursor is allocated (R89). -/
theorem openStrip (h : CounterEvent s0 s j w) : Settled s0 (openStrip w s) := by
  unfold Machine.openStrip
  dsimp only
  split
  · exact h.endShort _
  · next hfree =>
    have hcursor : s.log.stripCursor < 512 := Nat.lt_of_not_le hfree
    have hallocated := (h.withLog (l := { s.log with stripCursor := s.log.stripCursor + 1 }) h.blocks.append hcursor).withOpening
      (opening := some (s.log.stripCursor, .base)) (w.openAttempts + 1) fun o ho => by cases ho; exact hcursor
    exact hallocated.prepared _ (stripWord_lt hcursor (by decide))

theorem beginOpen (h : CounterEvent s0 s j w) : Settled s0 (beginOpen w s) :=
  (h.withWork (.counter w)).toInEvent.sampled (h.withWork (.counter w)).openStrip

/-- The next step, the job's end, or a new strip (R86). -/
theorem step (h : CounterEvent s0 s j w) : Settled s0 (counterStep w s) := by
  unfold counterStep
  split
  · exact (h.withWork (.counter w)).finish _ _
  · split
    · exact h.beginOpen
    · next hpos =>
      split
      · exact h.beginOpen
      · next strip hstrip =>
        have hlt := h.blocks.strip_lt hstrip
        have hword : thermometerWord strip w.nextPos < 16384 := by
          rw [thermometerWord_eq]
          simp only [Config.stripPositions] at hpos
          omega
        exact (h.withWork (.counter w)).toInEvent.sampled (h.prepared _ hword)

/-- The entry of a thermometer word seen: its value rises by the targeted cells that read set, within the target. -/
theorem thermometerEntry_value (h : CounterEvent s0 s j w) (normal : Word) :
    (thermometerEntry (counterEntry s w.counter) w normal).value =
      (counterEntry s w.counter).value + onesCount (normal &&& stepCells w) := by
  have hones := onesCount_stepCells_le normal w
  have hreach := h.reach
  have htarget := h.target
  exact counterField_of_le (by omega)

/-- The outcome of a thermometer word (R87). -/
theorem thermometerOutcome (h : CounterEvent s0 s j w) (hopening : w.opening = none) (o : SeqOutcome) :
    Settled s0 (thermometerOutcome w o s) := by
  have hvalue := h.thermometerEntry_value o.normal
  have hones := onesCount_stepCells_le o.normal w
  have hreach := h.reach
  have hid : (thermometerEntry (counterEntry s w.counter) w o.normal).id = w.counter := counterEntry_id s w.counter
  have hstrip : (thermometerEntry (counterEntry s w.counter) w o.normal).strip.all (fun n => decide (n < 512)) = true := by
    change (counterEntry s w.counter).strip.all (fun n => decide (n < 512)) = true
    cases hs : (counterEntry s w.counter).strip with
    | none => rfl
    | some strip => simpa using h.blocks.strip_lt hs
  have hset : InEvent s0 (setCounter (thermometerEntry (counterEntry s w.counter) w o.normal) s) j :=
    h.toInEvent.withCounter hstrip (by rw [hid, hvalue]; exact Nat.le_add_right _ _)
  have hmoved : CounterEvent s0 (setCounter (thermometerEntry (counterEntry s w.counter) w o.normal) s) j
      (thermometerWork (thermometerEntry (counterEntry s w.counter) w o.normal) w o) := by
    refine ⟨hset, h.counter, ?_, h.target, fun x hx => ?_⟩
    · have hcases := InEvent.counterEntry_setCounter_cases s (thermometerEntry (counterEntry s w.counter) w o.normal)
      rw [hid] at hcases
      change (counterEntry (setCounter (thermometerEntry (counterEntry s w.counter) w o.normal) s) w.counter).value +
        (w.remaining - onesCount (o.normal &&& stepCells w)) ≤ w.target
      rcases hcases with hc | hc
      · rw [hc, hvalue]; omega
      · rw [hc]; omega
    · have hnone : w.opening = some x := hx
      rw [hopening] at hnone
      cases hnone
  unfold Machine.thermometerOutcome
  dsimp only
  split
  · exact (hmoved.withWork _).step
  · exact (hmoved.withWork _).step
  · exact (hmoved.withWork _).abandon

/-- After a failed open attempt (R92). -/
theorem retryOpen (h : CounterEvent s0 s j w) : Settled s0 (retryOpen w s) := by
  unfold Machine.retryOpen
  split
  · exact (h.withOpening w.openAttempts (fun o ho => by cases ho)).beginOpen
  · exact h.endShort _

/-- The outcome of a base word (R90). -/
theorem baseOutcome (h : CounterEvent s0 s j w) {strip : Nat} (hstrip : strip < 512) (o : SeqOutcome) :
    Settled s0 (baseOutcome w strip o s) := by
  have hback : CounterEvent s0 (if o.normal = 0#32 then returnCursor strip s else s) j w := by
    split
    · exact h.withLog (l := { s.log with stripCursor := strip }) h.blocks.append (Nat.le_of_lt hstrip)
    · exact h
  unfold Machine.baseOutcome
  dsimp only
  split
  · have hclaiming := h.withOpening (opening := some (strip, .claim)) w.openAttempts fun o ho => by cases ho; exact hstrip
    exact h.toInEvent.sampled (hclaiming.prepared _ (stripWord_lt hstrip (by decide)))
  · exact hback.retryOpen
  · exact hback.abandon

/-- The counter moves to its new strip, its target as base and value (R91). -/
theorem switchStrip (h : CounterEvent s0 s j w) {strip : Nat} (hstrip : strip < 512) :
    Settled s0 (switchStrip w strip s) := by
  have hreach := h.reach
  have hset : InEvent s0 (setCounter ⟨w.counter, some strip, w.target, 0, none, w.target⟩ s) j :=
    h.toInEvent.withCounter (by simpa using hstrip) (by dsimp only; omega)
  exact (hset.withWork _).finish _ _

/-- The outcome of a claim (R91). -/
theorem claimOutcome (h : CounterEvent s0 s j w) {strip : Nat} (hstrip : strip < 512) (o : SeqOutcome) :
    Settled s0 (claimOutcome w strip o s) := by
  unfold Machine.claimOutcome
  dsimp only
  split
  · exact h.switchStrip hstrip
  · split
    · split
      · have hvoiding := h.withOpening (opening := some (strip, .void)) w.openAttempts
          fun o ho => by cases ho; exact hstrip
        exact hvoiding.prepared _ (stripWord_lt hstrip (by decide))
      · exact h.switchStrip hstrip
    · exact h.retryOpen
  · split
    · exact h.switchStrip hstrip
    · exact h.abandon

/-- The outcome of a void (R91). -/
theorem voidOutcome (h : CounterEvent s0 s j w) {strip : Nat} (hstrip : strip < 512) (o : SeqOutcome) :
    Settled s0 (voidOutcome w strip o s) := by
  unfold Machine.voidOutcome
  split
  · exact h.switchStrip hstrip
  · split
    · exact h.retryOpen
    · exact h.retryOpen
    · exact h.abandon

/-- The outcome of a sequence of a counter job (R87, R90, R91). -/
theorem outcome (h : CounterEvent s0 s j w) (o : SeqOutcome) : Settled s0 (counterOutcome w o s) := by
  unfold counterOutcome
  split
  · next hnone => exact h.thermometerOutcome hnone o
  · next hopen => exact h.baseOutcome (h.strip _ hopen) o
  · next hopen => exact h.claimOutcome (h.strip _ hopen) o
  · next hopen => exact h.voidOutcome (h.strip _ hopen) o

end CounterEvent

/-- An advance past its checks does not pass 24 bits (R84). -/
theorem value_of_advanceRefusal {s : State} {c n : Nat} (h : advanceRefusal s c n = none) :
    (counterEntry s c).value + n ≤ 16777215 := by
  unfold advanceRefusal at h
  dsimp only at h
  split at h
  · cases h
  · next hle => exact Nat.le_of_not_lt hle

theorem InEvent.startAdvance {s0 s : State} {j : Job} (h : InEvent s0 s j) {c n : Nat}
    (hcounter : jobCounter j.kind = some c) : Settled s0 (startAdvance c n s) := by
  unfold Machine.startAdvance
  split
  · exact h.finish _ _
  · next hnone =>
    have hwork : CounterEvent s0 s j (counterWork s c n) :=
      ⟨h, hcounter, Nat.le_refl _, value_of_advanceRefusal hnone, fun o ho => by cases ho⟩
    dsimp only
    split
    · exact hwork.step
    · exact hwork.beginOpen

theorem InEvent.startRaise {s0 s : State} {j : Job} (h : InEvent s0 s j) {c v : Nat}
    (hcounter : jobCounter j.kind = some c) : Settled s0 (startRaise c v s) := by
  unfold Machine.startRaise
  split
  · exact h.finish _ _
  · exact h.startAdvance hcounter

/-! ### Policy jobs (R108 to R110) -/

/-- A policy job in range is of a word of the option block (Table 6-4). -/
theorem word_lt_of_policyRequest {k : JobKind} (hk : kindInRange k = true) {word : Nat} {cells : Word}
    (h : policyRequest k = some (word, cells)) : word < 38 := by
  cases k with
  | append | delete | countAdvance | countRaise => cases h
  | setOption | close => cases h; decide
  | restrict target marks =>
    cases h
    simp only [kindInRange, Bool.and_eq_true] at hk
    have htarget := hk.1.1
    cases target <;> simp only [targetInRange, decide_eq_true_eq] at htarget <;> simp only [targetIndex] <;> omega

theorem recordFields_of_policyRequest {k : JobKind} {request : Nat × Word} (h : policyRequest k = some request) :
    recordFields k = none := by
  cases k with
  | append | delete => cases h
  | countAdvance | countRaise | restrict | setOption | close => rfl

theorem InEvent.startPolicy {s0 s : State} {j : Job} (h : InEvent s0 s j) (hpolicy : (policyRequest j.kind).isSome = true) :
    Settled s0 (startPolicy j s) := by
  unfold Machine.startPolicy
  split
  · next hnone => rw [hnone] at hpolicy; cases hpolicy
  · next word cells hrequest =>
    have hword := word_lt_of_policyRequest h.kind hrequest
    refine (h.withWork _).sampled (h.prepared (by omega) ?_ rfl rfl
      (roomFor_of_no_record (recordFields_of_policyRequest hrequest)))
    simp [workFits, hrequest]

/-- The outcome of a policy job's sequence: the copy takes the word as the array reads (R109). -/
theorem InEvent.policyOutcome {s0 s : State} {j : Job} (h : InEvent s0 s j) {word : Nat} {cells : Word}
    (hrequest : policyRequest j.kind = some (word, cells)) {o : SeqOutcome} (hread : o.normal = readNormal s.array word) :
    Settled s0 (policyOutcome j o s) := by
  simp only [Machine.policyOutcome, hrequest]
  exact ((h.policyUpdate (word_lt_of_policyRequest h.kind hrequest) hread).withWork _).finish _ _

/-! ### The start of a job (R31) -/

theorem InEvent.startChecks {s0 s : State} {j : Job} (h : InEvent s0 s j) : Settled s0 (startChecks j s) := by
  rcases startChecks_cases j s with ⟨code, e⟩ | ⟨-, -, -, e⟩
  · rw [e]; exact h.finish _ _
  · rw [e, startKind]
    split
    · next hk => exact h.startAppend hk
    · next hk => exact h.startDelete hk
    · next hk => exact h.startAdvance (by rw [hk]; rfl)
    · next hk => exact h.startRaise (by rw [hk]; rfl)
    · next hk => exact h.startPolicy (by rw [hk]; rfl)
    · next hk => exact h.startPolicy (by rw [hk]; rfl)
    · next hk => exact h.startPolicy (by rw [hk]; rfl)

end Sys2Proof.Machine
end

section
/-! Every event of the engine keeps the invariant: a job or repair is taken, the array is granted to the engine, a pulse
ends, and PGM_EN falls (R10 to R13, R30, R34, R40). -/

namespace Sys2Proof.Machine

/-- What a command leaves fits, and while the part stays READY nothing has fallen. -/
structure Kept (s t : State) : Prop where
  fits : Fits t
  rises : s.device = .ready → t.device = .ready → Rises s t

/-! ### Taking work -/

theorem EngineFits.of_idle {s : State} (h : EngineFits s) (hidle : s.engine.state = .idle) :
    s.engine = Engine.resting ∧ s.arbiter.claims.engine = false ∧ s.arbiter.holder ≠ .engine := by
  cases h with
  | idle he hc hh => exact ⟨he, hc, hh⟩
  | waiting hs => rw [hidle] at hs; cases hs
  | programming hs => rw [hidle] at hs; cases hs

/-- The head job goes from the queue into the engine's hand (R30). -/
theorem Fits.checking {s : State} (h : Fits s) {j : Job} {rest : List Job} (hhead : HeadJob s j rest) :
    InEvent s (checking s j rest) j := by
  obtain ⟨hready, hidle, hjobs⟩ := hhead
  obtain ⟨hresting, hclaim, -⟩ := h.engine.of_idle hidle
  obtain ⟨b, -, ports⟩ := h
  have hqueue := b.queue
  have hkinds := b.kinds
  rw [hjobs] at hqueue hkinds
  refine ⟨rfl, rfl, hkinds j (List.mem_cons_self ..), hready, hclaim, rfl, ?blocks, ?ports, .refl s⟩
  case blocks =>
    have hready' : s.device ≠ .mounting := by rw [hready]; decide
    exact ⟨b.audit, b.apart, b.decided, Nat.le_of_succ_le hqueue, fun x hx => hkinds x (List.mem_cons_of_mem _ hx),
      b.sorted, b.entries, b.spans, b.table, b.tableSpans, b.policy, b.append, b.cursor, b.repair, b.strips, b.reads,
      b.phase, fun hd => absurd hd hready', b.rst, b.supply⟩
  case ports =>
    refine ports.congr ⟨fun _ => rfl, fun p => ?_, rfl, rfl⟩ fun p => by cases p <;> rfl
    unfold outstandingWork
    rw [hjobs, hresting, List.countP_cons]
    change rest.countP (fun x => x.port == p) + (if (j.port == p) = true then 1 else 0) + _ =
      rest.countP (fun x => x.port == p) + (if (j.port == p) = true then 1 else 0) + 0 + _
    rfl

theorem Fits.jobTaken {s : State} (h : Fits s) {j : Job} {rest : List Job} (hhead : HeadJob s j rest) :
    Kept s (startChecks j (Machine.checking s j rest)) := by
  have hsettled := (h.checking hhead).startChecks
  exact ⟨hsettled.fits (h.engine.of_idle hhead.2.1).2.2, fun _ _ => hsettled.rises⟩

/-- A repair entry's sequence is prepared (R40, R125). -/
theorem Fits.repairTaken {s : State} (h : Fits s) {e : RepairEntry} (hready : s.device = .ready)
    (hidle : s.engine.state = .idle) (hmem : e ∈ s.repair.entries) : Kept s (takeRepair e s) := by
  obtain ⟨hresting, hclaim, hheld⟩ := h.engine.of_idle hidle
  obtain ⟨b, -, ports⟩ := h
  have hword := b.repair e hmem
  refine ⟨⟨?blocks, ?engine, ?ports⟩, fun _ _ => .of_eq rfl rfl⟩
  case blocks =>
    exact (b.withEngine ⟨.waiting, none, some e, .none, some ⟨e.word, repairTarget e.kind, 0, 0#32, false⟩⟩).claimEngine
      hready
  case engine => exact .waiting rfl rfl hheld hready ⟨rfl, rfl, rfl, rfl, by simpa [takeRepair] using hword, rfl⟩
  case ports =>
    refine ports.congr ⟨fun p => by cases p <;> rfl, fun p => ?_, rfl, rfl⟩ fun p => by cases p <;> rfl
    unfold outstandingWork
    rw [hresting]
    rfl

/-! ### A sequence -/

/-- `s` with its sequence ended. -/
def State.ended (s : State) : State := { s with engine := { s.engine with seq := none } }

/-- The engine of a READY part carries a sequence, its claim granted: all but its state and hold fits. -/
structure InSequence (s : State) : Prop where
  carries : Carries s
  ready : s.device = .ready
  claim : s.arbiter.claims.engine = false
  held : s.arbiter.holder = .engine
  blocks : BlocksFit s
  ports : PortsFit s

namespace InSequence

variable {s : State}

/-- The sequence ends with its job in hand. -/
theorem inEvent (h : InSequence s) {j : Job} (hjob : s.engine.job = some j) (hrepair : s.engine.repair = none) :
    InEvent s s.ended j where
  job := hjob
  repair := hrepair
  kind := by simpa [hjob] using h.carries.kind
  ready := h.ready
  claim := h.claim
  holder := rfl
  blocks := h.blocks.withEngine _
  ports := h.ports.congr ⟨fun _ => rfl, fun _ => rfl, rfl, rfl⟩ (fun p => by cases p <;> rfl)
  rises := .refl s

theorem mem_of_mem_countHead {ok : Bool} {r : RepairList} {e : RepairEntry} (h : e ∈ (countHead ok r).entries) :
    e ∈ r.entries := by
  unfold countHead at h
  split at h
  · exact List.mem_of_mem_drop h
  · exact List.mem_of_mem_drop h

/-- The sequence of a repair ends (R125 to R127). -/
theorem repairOutcome (h : InSequence s) (hjob : s.engine.job = none) (e : RepairEntry) (o : SeqOutcome) :
    Settled s (repairOutcome e o s.ended) := by
  have hrests : ∀ r : RepairList, (∀ x ∈ r.entries, x.word < 16384) →
      Settled s { s with engine := Engine.resting, repair := r } := fun r hr =>
    ⟨.inl ⟨rfl, h.claim⟩, h.ready, rfl, (h.blocks.withEngine Engine.resting).withRepair hr,
      h.ports.congr ⟨fun _ => rfl, outstandingWork_congr rfl hjob.symm rfl, rfl, rfl⟩ (fun p => by cases p <;> rfl),
      .of_eq rfl rfl⟩
  have hcounted : ∀ ok, ∀ x ∈ (countHead ok s.repair).entries, x.word < 16384 := fun ok x hx =>
    h.blocks.repair x (mem_of_mem_countHead hx)
  unfold Machine.repairOutcome
  split
  · exact hrests s.repair h.blocks.repair
  · exact hrests _ (hcounted _)
  · exact hrests _ (hcounted _)

/-- The outcome of the sequence in hand is handed over, with the word as the array reads (R13, R34). -/
theorem handOver (h : InSequence s) {q : Sequence} (hseq : s.engine.seq = some q) {o : SeqOutcome}
    (hread : o.normal = readNormal s.array q.word) :
    Settled s (handOver o s.ended) := by
  have hbusy := h.carries.busy
  have hwork := h.carries.work
  unfold engineBusy at hbusy
  rw [hseq] at hbusy
  cases hrepair : s.engine.repair with
  | some e =>
    cases hjob : s.engine.job with
    | some j => simp [hrepair, hjob] at hbusy
    | none =>
      rw [handOver_repair (s := s.ended) hrepair]
      exact h.repairOutcome hjob e o
  | none =>
    cases hjob : s.engine.job with
    | none => simp [hrepair, hjob] at hbusy
    | some j =>
      have hevent := h.inEvent hjob hrepair
      have hfits : workFits s.engine j = true := by simpa [hrepair, hjob] using hbusy
      have hroom : RoomFor s.directory j := (roomFor_of_directoryRoom hjob).1 h.carries.room
      have hbound := h.carries.bound
      unfold workFits at hfits
      cases hw : s.engine.work with
      | none => simp [hw] at hfits
      | record w =>
        simp only [hw, Bool.and_eq_true] at hfits
        rw [hw] at hwork
        rw [handOver_record (s := s.ended) ⟨hjob, hrepair, hw⟩]
        exact RecordEvent.outcome ⟨hevent, hfits.2, hroom⟩ hwork hfits.1 o
      | counter w =>
        simp only [hw, beq_iff_eq] at hfits
        rw [hw] at hwork
        simp only [counterBound, hw, Bool.and_eq_true, decide_eq_true_eq] at hbound
        rw [handOver_counter (s := s.ended) ⟨hjob, hrepair, hw⟩]
        refine CounterEvent.outcome ⟨hevent, hfits, hbound.1, hbound.2, fun x hx => ?_⟩ o
        simpa [workInArray, hx] using hwork
      | policy ran =>
        cases hrequest : policyRequest j.kind with
        | none => simp [hw, hseq, hrequest] at hfits
        | some request =>
          obtain ⟨word, cells⟩ := request
          simp only [hw, hseq, hrequest, beq_iff_eq] at hfits
          rw [handOver_policy (s := s.ended) hjob hrepair hw]
          exact hevent.policyOutcome hrequest (hfits ▸ hread)

end InSequence

theorem decidedOk_of_none {s : State} (h : s.arbiter.decided = none) : DecidedOk s := by
  unfold DecidedOk
  rw [h]
  rfl

/-- While the array is held no grant is decided (R17). -/
theorem BlocksFit.undecided {s : State} (h : BlocksFit s) (hheld : s.arbiter.holder ≠ .none) : s.arbiter.decided = none := by
  have hdecided := h.decided
  unfold DecidedOk at hdecided
  cases hd : s.arbiter.decided with
  | none => rfl
  | some who => simp [hd, hheld] at hdecided

/-- The array is held in a READY part alone (R15). -/
theorem BlocksFit.ready_of_held {s : State} (h : BlocksFit s) (hheld : s.arbiter.holder ≠ .none) : s.device = .ready :=
  device_ready_of_not_mounting fun hd => by
    obtain ⟨-, -, hnone, -⟩ := h.still hd
    exact hheld hnone

/-- The array is released by the engine: nothing was decided while it held it (R13, R17). -/
theorem BlocksFit.released {s : State} (h : BlocksFit s) (hheld : s.arbiter.holder = .engine) :
    BlocksFit (releaseArray s) := by
  have hne : s.arbiter.holder ≠ .none := by rw [hheld]; decide
  have hready' : s.device ≠ .mounting := by rw [h.ready_of_held hne]; decide
  have haudit := h.audit
  have hreads := h.reads
  unfold AuditOk at haudit
  unfold readsInArray at hreads
  rw [hheld] at haudit hreads
  exact ⟨haudit, fun p => Bool.and_false _, decidedOk_of_none (h.undecided hne), h.queue, h.kinds, h.sorted, h.entries,
    h.spans, h.table, h.tableSpans, h.policy, h.append, h.cursor, h.repair, h.strips, hreads, h.phase,
    fun hd => absurd hd hready', h.rst, h.supply⟩

/-- The event's end, the array released by the engine. -/
theorem Settled.released {s0 t : State} (h : Settled s0 t) (hheld : s0.arbiter.holder = .engine) :
    Kept s0 (releaseArray t) := by
  have hholder := h.holder.trans hheld
  refine ⟨⟨h.blocks.released hholder, ?_, ?_⟩, fun _ _ => h.rises.trans (.of_eq rfl rfl)⟩
  · rcases h.engine with ⟨he, hc⟩ | ⟨hs, hc, hk⟩
    · exact .idle he hc (by simp)
    · exact .waiting hs hc (by simp) h.ready (hk.congr rfl rfl rfl)
  · refine h.ports.congr ⟨fun p => ?_, fun _ => rfl, rfl, rfl⟩ fun p => by simp
    unfold readerBusy
    rw [releaseArray_arbiter, hholder]
    rfl

/-- Whether the work fits its job hangs neither on the engine's state nor, but for the word, on the sequence. -/
theorem workFits_withSequence {e : Engine} {q q' : Sequence} (hseq : e.seq = some q) (hword : q'.word = q.word)
    (state : EngineState) (j : Job) : workFits { e with state := state, seq := some q' } j = workFits e j := by
  rcases e with ⟨_, _, _, work, _⟩
  cases hseq
  cases work with
  | none | record | counter => rfl
  | policy ran => cases hrequest : policyRequest j.kind <;> simp [workFits, hrequest, hword]

/-- What the engine carries hangs neither on its state nor, but for the word, on its sequence. -/
theorem Carries.withSequence {s : State} (h : Carries s) {q q' : Sequence} (hseq : s.engine.seq = some q)
    (hword : q'.word = q.word) (state : EngineState) :
    Carries { s with engine := { s.engine with state := state, seq := some q' } } where
  busy := by
    have hbusy := h.busy
    unfold engineBusy at hbusy ⊢
    simp only [workFits_withSequence hseq hword]
    rw [hseq] at hbusy
    exact hbusy
  room := h.room
  bound := h.bound
  kind := h.kind
  word := by
    have hlt := h.word
    rw [hseq] at hlt
    change decide (q'.word < 16384) = true
    rw [hword]
    exact hlt
  work := h.work

namespace InSequence

variable {s : State}

/-- The sequence ends and the array is released (R13). -/
theorem endSequence (h : InSequence s) {q q' : Sequence} (hseq : s.engine.seq = some q) (hword : q'.word = q.word)
    (cls : OutcomeClass) : Kept s (endSequence q' cls s) :=
  (h.handOver hseq (o := ⟨q'.word, cls, q'.pulses, readNormal s.array q'.word, q'.margin⟩) (by rw [hword])).released h.held

/-- The next pulse is due, or PGM_EN is low (R12). -/
theorem duePulse (h : InSequence s) {q q' : Sequence} (hseq : s.engine.seq = some q) (hword : q'.word = q.word) :
    Kept s (duePulse q' s) := by
  unfold Machine.duePulse
  split
  · refine ⟨⟨h.blocks.withEngine _, ?_, ?_⟩, fun _ _ => .of_eq rfl rfl⟩
    · exact .programming rfl h.claim h.held h.ready (h.carries.withSequence (q' := { q' with cut := false }) hseq hword _)
    · exact h.ports.congr ⟨fun _ => rfl, fun _ => rfl, rfl, rfl⟩ (fun p => by cases p <;> rfl)
  · exact h.endSequence hseq hword .blocked

theorem startSequence (h : InSequence s) {q : Sequence} (hseq : s.engine.seq = some q) : Kept s (startSequence q s) := by
  unfold Machine.startSequence
  dsimp only
  split
  · refine h.endSequence hseq ?_ _
    rfl
  · exact h.duePulse hseq rfl

theorem judgePulse (h : InSequence s) {q : Sequence} (hseq : s.engine.seq = some q) : Kept s (judgePulse q s) := by
  unfold Machine.judgePulse
  dsimp only
  split
  · refine h.endSequence hseq ?_ _
    rfl
  · split
    · refine h.endSequence hseq ?_ _
      rfl
    · exact h.duePulse hseq rfl

end InSequence

/-! ### The grant to the engine (R10, R17) -/

/-- The grant goes to a pending claim (R17). -/
theorem BlocksFit.grantee_pending {s : State} (h : BlocksFit s) {who : Claimant} (hdue : grantee s.arbiter = some who) :
    claimPending s.arbiter.claims who = true := by
  have hdecided := h.decided
  unfold DecidedOk at hdecided
  cases hd : s.arbiter.decided with
  | none => exact chooseClaimant_pending ((grantee_of_undecided hd).symm.trans hdue)
  | some x =>
    rw [grantee_of_decided hd] at hdue
    cases hdue
    simp only [hd, Option.all_some, Bool.and_eq_true] at hdecided
    exact hdecided.2

/-- A pending claim of the engine is for the sequence it carries (R33). -/
theorem EngineFits.of_claim {s : State} (h : EngineFits s) (hclaim : s.arbiter.claims.engine = true) :
    s.engine.state = .waiting ∧ Carries s := by
  cases h with
  | idle _ hc => rw [hclaim] at hc; cases hc
  | waiting hs _ _ _ hk => exact ⟨hs, hk⟩
  | programming _ hc => rw [hclaim] at hc; cases hc

/-- The engine's sequence, granted the array. -/
theorem Fits.granted {s : State} (h : Fits s) (hready : s.device = .ready) (hfree : s.arbiter.holder = .none)
    (hdue : grantee s.arbiter = some .engine) :
    InSequence { s with arbiter := { recordGrant .engine s.arbiter with holder := .engine } } := by
  obtain ⟨b, e, ports⟩ := h
  obtain ⟨-, hcarries⟩ := e.of_claim (b.grantee_pending hdue)
  have hready' : s.device ≠ .mounting := by rw [hready]; decide
  have haudit := b.audit
  have hreads := b.reads
  unfold AuditOk at haudit
  unfold readsInArray at hreads
  rw [hfree] at haudit hreads
  refine ⟨hcarries.congr rfl rfl rfl, hready, rfl, rfl, ?blocks, ?ports⟩
  case blocks =>
    exact ⟨haudit, fun p => Bool.and_false _, rfl, b.queue, b.kinds, b.sorted, b.entries, b.spans, b.table, b.tableSpans,
      b.policy, b.append, b.cursor, b.repair, b.strips, hreads, b.phase, fun hd => absurd hd hready', b.rst, b.supply⟩
  case ports =>
    refine ports.congr ⟨fun p => ?_, fun _ => rfl, rfl, rfl⟩ fun p => by cases p <;> rfl
    unfold readerBusy
    rw [hfree]
    cases p <;> rfl

theorem Kept.of_start {s s1 t : State} (h : Kept s1 t) (hdevice : s1.device = s.device) (hrises : Rises s s1) :
    Kept s t := ⟨h.fits, fun hs ht => hrises.trans (h.rises (hdevice.trans hs) ht)⟩

theorem Fits.grantedEngine {s : State} (h : Fits s) {q : Sequence} (hready : s.device = .ready)
    (hfree : s.arbiter.holder = .none) (hdue : grantee s.arbiter = some .engine) (hseq : s.engine.seq = some q) :
    Kept s (grantEngine q { s with arbiter := recordGrant .engine s.arbiter }) :=
  ((h.granted hready hfree hdue).startSequence hseq).of_start rfl (.of_eq rfl rfl)

/-- The engine never claims without a sequence. -/
theorem Fits.not_grantedIdle {s : State} (h : Fits s) (hdue : grantee s.arbiter = some .engine) : s.engine.seq ≠ none := by
  intro hseq
  obtain ⟨-, hcarries⟩ := h.engine.of_claim (h.blocks.grantee_pending hdue)
  have hbusy := hcarries.busy
  simp [engineBusy, hseq] at hbusy

/-! ### Pulses (R2, R3, R11, R12) -/

/-- Raised cells keep the marks of the copy set in the array (law L7). -/
theorem PolicyOk.raised {s : State} (h : PolicyOk s) {m : Memory} (hrise : CellsRise s.array m) :
    PolicyOk { s with array := m } := fun hphase =>
  have ⟨hlength, hmarks⟩ := h hphase
  ⟨hlength, fun i hi => and_not_trans (hmarks i hi) (hrise i).1⟩

theorem BlocksFit.raised {s : State} (h : BlocksFit s) {m : Memory} (hrise : CellsRise s.array m) :
    BlocksFit { s with array := m } :=
  ⟨h.audit, h.apart, h.decided, h.queue, h.kinds, h.sorted, h.entries, h.spans, h.table, h.tableSpans,
    h.policy.raised hrise, h.append, h.cursor, h.repair, h.strips, h.reads, h.phase, h.still, h.rst, h.supply⟩

theorem EngineFits.of_running {s : State} (h : EngineFits s) {q : Sequence} (hrun : runningSequence s = some q) :
    s.engine.seq = some q ∧ s.arbiter.claims.engine = false ∧ s.arbiter.holder = .engine ∧ s.device = .ready ∧
      Carries s := by
  obtain ⟨hstate, hseq⟩ := seq_of_runningSequence hrun
  cases h with
  | idle he => rw [he] at hstate; cases hstate
  | waiting hs => rw [hs] at hstate; cases hstate
  | programming _ hc hh hr hk => exact ⟨hseq, hc, hh, hr, hk⟩

theorem Fits.pulsed {s : State} (h : Fits s) (hwf : Memory.wf s.array = true) {q : Sequence}
    (hrun : runningSequence s = some q) (e : PulseEffect) :
    Kept s (judgePulse q { s with array := pulsedArray s e }) := by
  obtain ⟨hseq, hclaim, hheld, hready, hcarries⟩ := h.engine.of_running hrun
  have hsequence : InSequence { s with array := pulsedArray s e } :=
    ⟨hcarries.congr rfl rfl rfl, hready, hclaim, hheld, h.blocks.raised (cellsRise_pulsedArray hwf e),
      h.ports.congr ⟨fun _ => rfl, fun _ => rfl, rfl, rfl⟩ (fun p => by cases p <;> rfl)⟩
  exact (hsequence.judgePulse hseq).of_start rfl (.of_eq rfl rfl)

/-- A fall of PGM_EN cuts the pulse in progress and leaves the engine as it is (R3, R12). -/
theorem Fits.fall {s : State} (h : Fits s) (hwf : Memory.wf s.array = true) (cut : PulseEffect) :
    Kept s { s with pgmEn := false, array := pulsedArray s cut, engine := markCut s.engine } := by
  have hjob : (markCut s.engine).job = s.engine.job := by
    unfold markCut
    split <;> rfl
  have hraised := h.blocks.raised (cellsRise_pulsedArray hwf cut)
  refine ⟨⟨?blocks, ?engine, ?ports⟩, fun _ _ => .of_eq rfl rfl⟩
  case blocks =>
    exact ⟨hraised.audit, hraised.apart, hraised.decided, hraised.queue, hraised.kinds, hraised.sorted, hraised.entries,
      hraised.spans, hraised.table, hraised.tableSpans, hraised.policy, hraised.append, hraised.cursor, hraised.repair,
      hraised.strips, hraised.reads, hraised.phase, hraised.still, hraised.rst, hraised.supply⟩
  case ports =>
    exact h.ports.congr ⟨fun _ => rfl, outstandingWork_congr rfl hjob rfl, rfl, rfl⟩ (fun p => by cases p <;> rfl)
  case engine =>
    have hstays : s.engine.state ≠ .programming → markCut s.engine = s.engine := fun hs => if_neg hs
    cases h.engine with
    | idle he hc hh => exact .idle ((hstays (by rw [he]; decide)).trans he) hc hh
    | waiting hs hc hh hr hk =>
      have he := hstays (by rw [hs]; decide)
      exact .waiting (by rw [he]; exact hs) hc hh hr (hk.congr he rfl rfl)
    | programming hs hc hh hr hk =>
      have hbusy := hk.busy
      cases hseq : s.engine.seq with
      | none => simp [engineBusy, hseq] at hbusy
      | some q =>
        have he : markCut s.engine = { s.engine with state := .programming, seq := some { q with cut := true } } := by
          unfold markCut
          rw [if_pos hs, hseq, ← hs]
          rfl
        refine .programming ?_ hc hh hr ?_
        · rw [he]
        · exact (hk.withSequence (q' := { q with cut := true }) hseq rfl .programming).congr he rfl rfl

end Sys2Proof.Machine
end

section
/-! Host frames, fetches, grants and bursts keep the invariant (R16 to R19, R133, R150 to R164). -/

namespace Sys2Proof.Machine

/-! ### One port changes -/

/-- A command that touches one port alone keeps what fits. -/
theorem Fits.alone {s t : State} {p : Port} {q : PortState} (h : Fits s) (ht : PortAlone s p q t)
    (hq : PortFitsAt s p q) : Kept s t :=
  ⟨⟨h.blocks.congr ht.core, h.engine.core ht.core, h.ports.alone ht hq⟩,
    fun _ _ => .of_eq ht.core.counters ht.core.policy⟩

/-- One port, its claims and its work change, and no other port's. -/
theorem PortsFit.update {s t : State} {p : Port} (h : PortsFit s)
    (hothers : ∀ r, r ≠ p → t.port r = s.port r ∧ readerBusy t.arbiter r = readerBusy s.arbiter r ∧
      outstandingWork t r = outstandingWork s r)
    (hpolicy : t.policy = s.policy) (hdevice : t.device = s.device) (hp : PortFitsAt t p (t.port p)) : PortsFit t := by
  intro r
  by_cases hr : r = p
  · subst hr; exact hp
  · obtain ⟨hport, hbusy, hwork⟩ := hothers r hr
    have hfit := h r
    unfold PortFitsAt at hfit ⊢
    rw [hport, hbusy, hwork, levelMode_congr hpolicy, hdevice]
    exact hfit

theorem slotWorking_of_free {q : PortState} (h : slotFree q = true) : slotWorking q = false := by
  rw [slotWorking, h]; rfl

/-- A frame taken at a free slot is answered (R131, R158). -/
theorem PortFits.frameAnswered {busy : Bool} {work : Nat} {level : Bool} {device : DeviceState} {q : PortState}
    (h : PortFits busy work level device q) (hfree : slotFree q = true) {q' : PortState} (hslot : q'.slot = .replyReady)
    (hreply : q'.reply.isSome = true) (hout : q'.outstanding = q.outstanding) (hres : q'.results.length ≤ q.results.length)
    (hline : device = .ready → LineFits level q') (hquiet : device = .mounting → portQuiet q' = true) :
    PortFits busy work level device q' where
  slot := by
    rw [← h.slot, slotWorking_of_free hfree, slotWorking, slotFree, hslot]
    rfl
  reply := by rw [hreply, hslot]; rfl
  outstanding := hout.trans h.outstanding
  most := hout ▸ h.most
  share := by
    have hshare := h.share
    omega
  line := hline
  quiet := hquiet

theorem Fits.answered {s : State} (h : Fits s) {p : Port} (hfree : slotFree (s.port p) = true) (cmd tag : Byte)
    (code : Code) (body : List Byte) : Kept s (answer p cmd tag code body (s.taken p)) :=
  h.alone ((portAlone_taken p s).answer cmd tag code body)
    ((h.ports p).frameAnswered hfree rfl rfl rfl (Nat.le_refl _) (h.ports p).line (h.ports p).quiet)

/-! ### A reader's claim (R16, R131) -/

theorem readerBusy_markClaim_other {a : Arbiter} {p r : Port} (h : r ≠ p) (on : Bool) (c : Claims)
    (hc : c = markClaim a.claims (.reader p) on) : claimPending c (.reader r) = claimPending a.claims (.reader r) := by
  subst hc
  exact claimPending_markClaim_other _ _ fun k => h (by cases k; rfl)

/-- A port whose slot is free has no claim pending and holds nothing (R16). -/
theorem PortsFit.idle_of_free {s : State} (h : PortsFit s) {p : Port} (hfree : slotFree (s.port p) = true) :
    claimPending s.arbiter.claims (.reader p) = false ∧ holdsFor s.arbiter.holder p = false := by
  have hslot := (h p).slot
  rw [slotWorking_of_free hfree] at hslot
  exact Bool.or_eq_false_iff.1 hslot.symm

theorem BlocksFit.claimReader {s : State} (h : BlocksFit s) (hready : s.device = .ready) {p : Port}
    (hholds : holdsFor s.arbiter.holder p = false) : BlocksFit (enterClaim (.reader p) s) := by
  have hready' : s.device ≠ .mounting := by rw [hready]; decide
  have haudit : AuditOk (enterClaim (.reader p) s) := by
    have haudit := h.audit
    cases p <;> exact haudit
  refine ⟨haudit, fun r => ?_, decidedOk_enterClaim h.decided _, h.queue, h.kinds, h.sorted, h.entries, h.spans, h.table,
    h.tableSpans, h.policy, h.append, h.cursor, h.repair, h.strips, h.reads, h.phase, fun hd => absurd hd hready', h.rst,
    h.supply⟩
  rw [enterClaim_arbiter]
  by_cases hr : r = p
  · subst hr
    have hheld : (claimEntered (.reader r) s.arbiter).holder = s.arbiter.holder := rfl
    rw [hheld, hholds, Bool.and_false]
  · have hapart := h.apart r
    have hclaims : (claimEntered (.reader p) s.arbiter).claims = markClaim s.arbiter.claims (.reader p) true := rfl
    rw [readerBusy_markClaim_other hr true _ hclaims]
    exact hapart

/-- READ: the slot WORKING and the reader's claim pending (R131, R132). -/
theorem Fits.reading {s u : State} {p : Port} {r : ReadInHand} {output : List Byte} (h : Fits s) (hready : s.device = .ready)
    (hfree : slotFree (s.port p) = true)
    (hu : PortAlone s p { s.port p with slot := .working r, reply := none, output := output } u) :
    Kept s (enterClaim (.reader p) u) := by
  obtain ⟨-, hholds⟩ := h.ports.idle_of_free hfree
  have harbiter := hu.core.arbiter
  refine ⟨⟨(h.blocks.congr hu.core).claimReader (hu.core.device.trans hready) (by rw [harbiter]; exact hholds), ?engine,
    ?ports⟩, fun _ _ => .of_eq hu.core.counters hu.core.policy⟩
  case engine =>
    refine (h.engine.core hu.core).congr rfl ?_ Iff.rfl rfl rfl rfl
    cases p <;> rfl
  case ports =>
    refine h.ports.update (p := p) (fun x hx => ⟨?_, ?_, ?_⟩) hu.core.policy hu.core.device ?_
    · rw [← hu.others x hx]; cases x <;> rfl
    · have hclaims : (enterClaim (.reader p) u).arbiter.claims = markClaim u.arbiter.claims (.reader p) true := rfl
      unfold readerBusy
      rw [readerBusy_markClaim_other hx true _ hclaims, harbiter]
      have hholder : (enterClaim (.reader p) u).arbiter.holder = u.arbiter.holder := rfl
      rw [hholder, harbiter]
    · exact outstandingWork_congr hu.core.jobs (congrArg Engine.job hu.core.engine) hu.core.audit x
    · have hport : (enterClaim (.reader p) u).port p = u.port p := by cases p <;> rfl
      have hbusy : readerBusy (enterClaim (.reader p) u).arbiter p = true := by
        have hclaims : (enterClaim (.reader p) u).arbiter.claims = markClaim u.arbiter.claims (.reader p) true := rfl
        unfold readerBusy
        rw [hclaims, claimPending_markClaim_same]
        rfl
      have hdevice : (enterClaim (.reader p) u).device = s.device := hu.core.device
      have hwork : outstandingWork (enterClaim (.reader p) u) p = outstandingWork s p :=
        outstandingWork_congr hu.core.jobs (congrArg Engine.job hu.core.engine) hu.core.audit p
      have hlevel : levelMode (enterClaim (.reader p) u) p = levelMode s p := levelMode_congr hu.core.policy p
      unfold PortFitsAt
      rw [hport, hu.here, hbusy, hdevice, hwork, hlevel]
      exact (h.ports p).withSlot _ _ _ rfl rfl

/-! ### PORT-RESET (R164) -/

theorem orphanJob_frame (p : Port) (j : Job) : (orphanJob p j).kind = j.kind ∧ (orphanJob p j).port = j.port := by
  unfold orphanJob
  split <;> exact ⟨rfl, rfl⟩

/-- Whether the engine is busy hangs on its job's kind alone. -/
theorem engineBusy_withJob {e : Engine} {j j' : Job} (hjob : e.job = some j) (hkind : j'.kind = j.kind) :
    engineBusy { e with job := some j' } = engineBusy e := by
  rcases e with ⟨_, _, repair, work, _⟩
  cases hjob
  have hfits : ∀ state seq, workFits ⟨state, some j', repair, work, seq⟩ j' = workFits ⟨state, some j, repair, work, seq⟩ j := by
    intro state seq
    cases work with
    | none => rfl
    | record | counter | policy => simp only [workFits, hkind]
  cases repair with
  | none => simp only [engineBusy, hfits]
  | some r => rfl

theorem orphanPort_audit (p : Port) (s : State) :
    (orphanPort p s).audit.running = s.audit.running ∧ (orphanPort p s).audit.requester = s.audit.requester ∧
      (orphanPort p s).audit.capturedAppend = s.audit.capturedAppend ∧
      (orphanPort p s).audit.capturedCursor = s.audit.capturedCursor ∧
      (orphanPort p s).audit.stage = s.audit.stage ∧ (orphanPort p s).audit.position = s.audit.position := by
  unfold orphanPort
  dsimp only
  split <;> exact ⟨rfl, rfl, rfl, rfl, rfl, rfl⟩

/-- Orphaning a port's work changes no count, claim or address (R39, R171). -/
theorem Fits.orphaned {s : State} (h : Fits s) (p : Port) : Fits (orphanPort p s) := by
  obtain ⟨b, e, ports⟩ := h
  obtain ⟨hrun, hrequester, happend, hcursor, hstage, hposition⟩ := orphanPort_audit p s
  refine ⟨?blocks, ?engine, ?ports⟩
  case blocks =>
    have haudit : AuditOk (orphanPort p s) := by
      have haudit := b.audit
      unfold AuditOk at haudit ⊢
      rw [hrun, hrequester]
      exact haudit
    have hreads : readsInArray (orphanPort p s) = true := by
      have hreads := b.reads
      unfold readsInArray at hreads ⊢
      rw [hrun, happend, hcursor, hstage, hposition]
      exact hreads
    refine ⟨haudit, b.apart, b.decided, ?_, ?_, b.sorted, b.entries, b.spans, b.table, b.tableSpans, b.policy, b.append,
      b.cursor, b.repair, b.strips, hreads, b.phase, fun hd => ?_, b.rst, b.supply⟩
    · change (s.jobs.map (orphanJob p)).length ≤ 8
      rw [List.length_map]
      exact b.queue
    · intro j hj
      obtain ⟨x, hx, rfl⟩ := List.mem_map.1 hj
      rw [(orphanJob_frame p x).1]
      exact b.kinds x hx
    · obtain ⟨hjobs, hidle, hnone, hclaims⟩ := b.still hd
      refine ⟨?_, hrun.trans hidle, hnone, hclaims⟩
      change s.jobs.map (orphanJob p) = []
      rw [hjobs]
      rfl
  case engine =>
    have hcarries : Carries s → Carries (orphanPort p s) := by
      intro k
      have hbusy := k.busy
      have hroom := k.room
      have hkind := k.kind
      cases hjob : s.engine.job with
      | none =>
        have hengine : (orphanPort p s).engine = s.engine := by
          unfold orphanPort
          dsimp only
          rw [hjob, Option.map_none, ← hjob]
        exact k.congr hengine rfl rfl
      | some j =>
        obtain ⟨hjkind, -⟩ := orphanJob_frame p j
        have hjob' : (orphanPort p s).engine.job = some (orphanJob p j) := by
          change s.engine.job.map (orphanJob p) = _
          rw [hjob]
          rfl
        refine ⟨?_, ?_, k.bound, ?_, k.word, k.work⟩
        · have horphan : (orphanPort p s).engine = { s.engine with job := some (orphanJob p j) } := by
            rw [← hjob']
            rfl
          rw [horphan, engineBusy_withJob hjob hjkind]
          exact hbusy
        · rw [roomFor_of_directoryRoom hjob] at hroom
          rw [roomFor_of_directoryRoom hjob']
          intro key kind payload hf
          rw [hjkind] at hf
          exact hroom key kind payload hf
        · rw [hjob', Option.all_some, hjkind]
          simpa [hjob] using hkind
    cases e with
    | idle he hc hh =>
      refine .idle ?_ hc hh
      unfold orphanPort
      dsimp only
      rw [he]
      rfl
    | waiting hs hc hh hr k => exact .waiting hs hc hh hr (hcarries k)
    | programming hs hc hh hr k => exact .programming hs hc hh hr (hcarries k)
  case ports =>
    refine ports.congr ⟨fun _ => rfl, fun r => ?_, rfl, rfl⟩ fun r => by simp
    unfold outstandingWork
    rw [hrun, hrequester]
    have hcount : (orphanPort p s).jobs.countP (fun j => j.port == r) = s.jobs.countP (fun j => j.port == r) := by
      change (s.jobs.map (orphanJob p)).countP _ = _
      rw [List.countP_map]
      refine List.countP_congr fun j _ => ?_
      simp only [Function.comp_apply, (orphanJob_frame p j).2]
    have hjob : (orphanPort p s).engine.job.any (fun j => j.port == r) = s.engine.job.any (fun j => j.port == r) := by
      change (s.engine.job.map (orphanJob p)).any _ = _
      cases s.engine.job with
      | none => rfl
      | some j => simp only [Option.map_some, Option.any_some, (orphanJob_frame p j).2]
    rw [hcount, hjob]

theorem Fits.emptied {s : State} (h : Fits s) {p : Port} (hready : s.device = .ready) (hfree : slotFree (s.port p) = true)
    (tag : Byte) :
    Kept s (answer p (commandCode .portReset) tag .ok []
      (orphanPort p ((s.taken p).setPort p (resetPortState ((s.taken p).port p))))) := by
  have halone := ((portAlone_taken p s).modify resetPortState).answer (commandCode .portReset) tag .ok []
  have hemptied := h.alone halone ((h.ports p).frameAnswered hfree rfl rfl rfl (Nat.zero_le _)
    (fun _ => ⟨fun _ => ⟨rfl, rfl⟩, fun _ => rfl⟩) (fun hd => by rw [hready] at hd; cases hd))
  have hswap : answer p (commandCode .portReset) tag .ok []
      (orphanPort p ((s.taken p).setPort p (resetPortState ((s.taken p).port p)))) =
      orphanPort p (answer p (commandCode .portReset) tag .ok []
        ((s.taken p).setPort p (resetPortState ((s.taken p).port p)))) := by cases p <;> rfl
  rw [hswap]
  exact ⟨hemptied.fits.orphaned p, fun hs ht => (hemptied.rises hs ht).trans (.of_eq rfl rfl)⟩

/-! ### A job accepted (R22, R26, R27) -/

theorem quota_of_not_reached {q : PortState} (h : quotaReached q = false) :
    q.outstanding ≤ 2 ∧ q.outstanding + q.results.length ≤ 3 := by
  simp only [quotaReached, Bool.or_eq_false_iff, decide_eq_false_iff_not] at h
  omega

/-- A frame answered that counts one piece of work more (R26, R27). -/
theorem PortFits.workAdded {busy : Bool} {work : Nat} {level : Bool} {device : DeviceState} {q : PortState}
    (h : PortFits busy work level device q) (hready : device = .ready) (hfree : slotFree q = true)
    (hquota : quotaReached q = false) (item : Item) (output : List Byte) :
    PortFits busy (work + 1) level device
      { q with outstanding := q.outstanding + 1, slot := .replyReady, reply := some item, output := output } := by
  obtain ⟨hmost, hshare⟩ := quota_of_not_reached hquota
  subst hready
  refine ⟨?_, rfl, ?_, ?_, ?_, h.line, fun hd => by cases hd⟩
  · rw [← h.slot, slotWorking_of_free hfree]; rfl
  · exact congrArg Nat.succ h.outstanding
  · exact Nat.succ_le_succ hmost
  · change q.outstanding + 1 + q.results.length ≤ 4
    omega

theorem Fits.accepted {s : State} (h : Fits s) {p : Port} (hready : s.device = .ready)
    (hfree : slotFree (s.port p) = true) (cmd : Command) (tag : Byte) {k : JobKind} (hkind : kindInRange k = true)
    (hquota : quotaReached (s.port p) = false) (hroom : s.jobs.length < 8) :
    Kept s (answer p (commandCode cmd) tag .accepted [] (acceptJob p tag k (s.taken p))) := by
  have halone := ((portAlone_taken p s).modify fun q => { q with outstanding := q.outstanding + 1 }).answer
    (commandCode cmd) tag .accepted []
  generalize hv : answer p (commandCode cmd) tag .accepted [] ((s.taken p).setPort p
    { (s.taken p).port p with outstanding := ((s.taken p).port p).outstanding + 1 }) = v at halone
  have hjobs : v.jobs = s.jobs := halone.core.jobs
  have ht : answer p (commandCode cmd) tag .accepted [] (acceptJob p tag k (s.taken p)) =
      { v with jobs := s.jobs ++ [⟨k, p, tag, false⟩] } := by
    rw [← hv]
    cases p <;> rfl
  rw [ht]
  have b := h.blocks.congr halone.core
  have hready' : v.device ≠ .mounting := by rw [halone.core.device, hready]; decide
  have hwork : ∀ r, outstandingWork { v with jobs := s.jobs ++ [⟨k, p, tag, false⟩] } r =
      outstandingWork s r + if p = r then 1 else 0 := by
    intro r
    have hengine := halone.core.engine
    have haudit := halone.core.audit
    have hone : ([⟨k, p, tag, false⟩] : List Job).countP (fun j => j.port == r) = if p = r then 1 else 0 := by
      by_cases hr : p = r <;> simp [hr]
    simp only [outstandingWork, hengine, haudit, List.countP_append, hone]
    omega
  refine ⟨⟨?blocks, ?engine, ?ports⟩, fun _ _ => .of_eq halone.core.counters halone.core.policy⟩
  case blocks =>
    refine ⟨b.audit, b.apart, b.decided, ?_, fun j hj => ?_, b.sorted, b.entries, b.spans, b.table, b.tableSpans,
      b.policy, b.append, b.cursor, b.repair, b.strips, b.reads, b.phase, fun hd => absurd hd hready', b.rst, b.supply⟩
    · rw [List.length_append]
      exact hroom
    · rcases List.mem_append.1 hj with hj | hj
      · exact h.blocks.kinds j hj
      · rw [List.mem_singleton.1 hj]
        exact hkind
  case engine => exact (h.engine.core halone.core).congr rfl rfl Iff.rfl rfl rfl rfl
  case ports =>
    refine h.ports.update (p := p) (fun r hr => ⟨?_, ?_, ?_⟩) halone.core.policy halone.core.device ?_
    · rw [← halone.others r hr]; cases r <;> rfl
    · exact congrArg (readerBusy · r) halone.core.arbiter
    · rw [hwork, if_neg fun k => hr k.symm]; rfl
    · have hport : State.port { v with jobs := s.jobs ++ [⟨k, p, tag, false⟩] } p = v.port p := by cases p <;> rfl
      have hlevel : levelMode { v with jobs := s.jobs ++ [⟨k, p, tag, false⟩] } p = levelMode s p :=
        levelMode_congr halone.core.policy p
      unfold PortFitsAt
      rw [hwork, if_pos rfl, hport, halone.here, hlevel]
      change PortFits (readerBusy v.arbiter p) _ _ v.device _
      rw [halone.core.arbiter, halone.core.device]
      exact (h.ports p).workAdded hready hfree hquota _ _

end Sys2Proof.Machine
end

section
/-! Readers' bursts and audits keep the invariant (R16, R17, R133, R166 to R170). -/

namespace Sys2Proof.Machine

/-! ### The grant to a reader (R133) -/

/-- The blocks with a reader's claim removed, the array free and nothing decided. -/
theorem BlocksFit.grantReader {s : State} (h : BlocksFit s) (hready : s.device = .ready)
    (hfree : s.arbiter.holder = .none) (p : Port) : BlocksFit { s with arbiter := recordGrant (.reader p) s.arbiter } := by
  have hready' : s.device ≠ .mounting := by rw [hready]; decide
  have haudit : AuditOk { s with arbiter := recordGrant (.reader p) s.arbiter } := by
    have haudit := h.audit
    cases p <;> exact haudit
  refine ⟨haudit, fun r => ?_, rfl, h.queue, h.kinds, h.sorted, h.entries, h.spans, h.table, h.tableSpans, h.policy,
    h.append, h.cursor, h.repair, h.strips, h.reads, h.phase, fun hd => absurd hd hready', h.rst, h.supply⟩
  have hheld : (recordGrant (.reader p) s.arbiter).holder = .none := hfree
  rw [hheld]
  exact Bool.and_false _

/-- A READ is answered in the event of its grant (Table 8-2). -/
theorem Fits.readAnswered {s : State} (h : Fits s) (hready : s.device = .ready) (hfree : s.arbiter.holder = .none)
    (p : Port) (cmd tag : Byte) (code : Code) (body : List Byte) :
    Fits (answer p cmd tag code body { s with arbiter := recordGrant (.reader p) s.arbiter }) := by
  have hb := h.blocks.grantReader hready hfree p
  have hcore := (sameBlocks_answer p cmd tag code body { s with arbiter := recordGrant (.reader p) s.arbiter }).core
  have hclaims : (recordGrant (.reader p) s.arbiter).claims = markClaim s.arbiter.claims (.reader p) false := rfl
  have hheld : (recordGrant (.reader p) s.arbiter).holder = s.arbiter.holder := rfl
  refine ⟨hb.congr hcore, ?engine, ?ports⟩
  case engine =>
    refine EngineFits.core (s := { s with arbiter := recordGrant (.reader p) s.arbiter }) ?_ hcore
    refine h.engine.congr rfl ?_ Iff.rfl rfl rfl rfl
    cases p <;> rfl
  case ports =>
    refine h.ports.update (p := p) (fun r hr => ⟨?_, ?_, ?_⟩) hcore.policy hcore.device ?_
    · rw [port_answer, if_neg hr]
      cases r <;> rfl
    · rw [hcore.arbiter]
      unfold readerBusy
      rw [readerBusy_markClaim_other hr false _ hclaims, hheld]
    · exact outstandingWork_congr hcore.jobs (congrArg Engine.job hcore.engine) hcore.audit r
    · have hport : State.port { s with arbiter := recordGrant (.reader p) s.arbiter } p = s.port p := by cases p <;> rfl
      have hbusy : readerBusy (recordGrant (.reader p) s.arbiter) p = false := by
        unfold readerBusy
        rw [hclaims, claimPending_markClaim_same, hheld, hfree]
        rfl
      unfold PortFitsAt
      rw [port_answer, if_pos rfl, hport, hcore.arbiter, hbusy, hcore.device, levelMode_congr hcore.policy,
        outstandingWork_congr hcore.jobs (congrArg Engine.job hcore.engine) hcore.audit]
      exact (h.ports p).answered _

/-- A READ holds the array with its entry (R70, R133). -/
theorem Fits.readHeld {s : State} (h : Fits s) (hready : s.device = .ready) (hfree : s.arbiter.holder = .none)
    {p : Port} (hclaim : claimPending s.arbiter.claims (.reader p) = true) {e : DirEntry} (he : e ∈ s.directory) :
    Fits { s with arbiter := { recordGrant (.reader p) s.arbiter with holder := .reader p e } } := by
  have hb := h.blocks.grantReader hready hfree p
  have hready' : s.device ≠ .mounting := by rw [hready]; decide
  have haudit := h.blocks.audit
  have hreads := h.blocks.reads
  unfold AuditOk at haudit
  unfold readsInArray at hreads
  rw [hfree] at haudit hreads
  have hclaims : (recordGrant (.reader p) s.arbiter).claims = markClaim s.arbiter.claims (.reader p) false := rfl
  have hkept : ∀ r, r ≠ p → claimPending (markClaim s.arbiter.claims (.reader p) false) (.reader r) =
      claimPending s.arbiter.claims (.reader r) := fun r hr => readerBusy_markClaim_other hr false _ rfl
  have hholds : ∀ r, holdsFor (.reader p e) r = decide (p = r) := fun r => by
    cases p <;> cases r <;> rfl
  refine ⟨?blocks, ?engine, ?ports⟩
  case blocks =>
    refine ⟨?_, fun r => ?_, rfl, hb.queue, hb.kinds, hb.sorted, hb.entries, hb.spans, hb.table, hb.tableSpans, hb.policy,
      hb.append, hb.cursor, hb.repair, hb.strips, ?_, hb.phase, fun hd => absurd hd hready', hb.rst, hb.supply⟩
    · cases p <;> exact haudit
    · dsimp only
      rw [hclaims, hholds]
      by_cases hr : p = r
      · subst hr; rw [claimPending_markClaim_same, Bool.false_and]
      · rw [decide_eq_false hr, Bool.and_false]
    · unfold readsInArray
      dsimp only
      rw [h.blocks.spans e he]
      exact hreads
  case engine =>
    refine h.engine.congr rfl ?_ ?_ rfl rfl rfl
    · cases p <;> rfl
    · rw [hfree]; simp
  case ports =>
    refine h.ports.congr ⟨fun r => ?_, fun _ => rfl, rfl, rfl⟩ fun r => by cases r <;> rfl
    unfold readerBusy
    dsimp only
    rw [hclaims, hholds, hfree]
    by_cases hr : p = r
    · subst hr; rw [decide_eq_true rfl, Bool.or_true, hclaim]; rfl
    · rw [decide_eq_false hr, hkept r fun k => hr k.symm]; rfl

/-- A slot whose port's reader claims or holds the array is WORKING (R16). -/
theorem PortFits.working {work : Nat} {level : Bool} {device : DeviceState} {q : PortState}
    (h : PortFits true work level device q) : ∃ r, q.slot = .working r := by
  have hslot := h.slot
  unfold slotWorking slotFree at hslot
  cases hq : q.slot with
  | working r => exact ⟨r, rfl⟩
  | empty => rw [hq] at hslot; cases hslot
  | replyReady => rw [hq] at hslot; cases hslot

/-- A reader that must read words has an entry to read them from (Table 8-2). -/
theorem dirFind_of_burstAnswer {s : State} {p : Port} {key : Nat} (h : burstAnswer s p key = none) :
    ∃ e, dirFind s.directory key = some e := by
  unfold burstAnswer at h
  split at h
  · cases h
  · split at h
    · cases h
    · next e he => exact ⟨e, he⟩

theorem Fits.grantedReader {s : State} (h : Fits s) {p : Port} (hready : s.device = .ready)
    (hfree : s.arbiter.holder = .none) (hdue : grantee s.arbiter = some (.reader p)) :
    Kept s (grantReader p { s with arbiter := recordGrant (.reader p) s.arbiter }) := by
  have hclaim := h.blocks.grantee_pending hdue
  have hport : State.port { s with arbiter := recordGrant (.reader p) s.arbiter } p = s.port p := by cases p <;> rfl
  have hbusy : readerBusy s.arbiter p = true := by rw [readerBusy, hclaim, Bool.true_or]
  have hfit := h.ports p
  unfold PortFitsAt at hfit
  rw [hbusy] at hfit
  obtain ⟨r, hslot⟩ := hfit.working
  have hslot' : (State.port { s with arbiter := recordGrant (.reader p) s.arbiter } p).slot = .working r := by
    rw [hport]; exact hslot
  cases hanswer : burstAnswer { s with arbiter := recordGrant (.reader p) s.arbiter } p r.key with
  | some answer =>
    obtain ⟨code, body⟩ := answer
    rw [grantReader_answered hslot' hanswer]
    have hcore := (sameBlocks_answer p (commandCode .read) r.tag code body
      { s with arbiter := recordGrant (.reader p) s.arbiter }).core
    exact ⟨h.readAnswered hready hfree p _ _ code body, fun _ _ => .of_eq hcore.counters hcore.policy⟩
  | none =>
    obtain ⟨e, hfind⟩ := dirFind_of_burstAnswer hanswer
    rw [grantReader_holds hslot' hanswer hfind]
    exact ⟨h.readHeld hready hfree hclaim (List.mem_of_find?_eq_some hfind), fun _ _ => .of_eq rfl rfl⟩

/-! ### The end of a burst (R134) -/

/-- A reader's claim and hold never stand together, nor another's hold (R16). -/
theorem Fits.burstEnded {s : State} (h : Fits s) {p : Port} {e : DirEntry} (hheld : s.arbiter.holder = .reader p e)
    (cmd tag : Byte) (code : Code) (body : List Byte) : Kept s (answer p cmd tag code body (releaseArray s)) := by
  have b := h.blocks
  have hne : s.arbiter.holder ≠ .none := fun k => by rw [hheld] at k; cases k
  have hready' : s.device ≠ .mounting := by rw [b.ready_of_held hne]; decide
  have haudit := b.audit
  have hreads := (Bool.and_eq_true_iff.1 b.reads).2
  have hapart := b.apart p
  unfold AuditOk at haudit
  rw [hheld] at haudit hapart
  have hholds : ∀ r, holdsFor (.reader p e) r = decide (p = r) := fun r => by cases p <;> cases r <;> rfl
  have hblocks : BlocksFit (releaseArray s) :=
    ⟨haudit, fun r => Bool.and_false _, decidedOk_of_none (b.undecided hne), b.queue, b.kinds, b.sorted, b.entries,
      b.spans, b.table, b.tableSpans, b.policy, b.append, b.cursor, b.repair, b.strips, hreads, b.phase,
      fun hd => absurd hd hready', b.rst, b.supply⟩
  have hcore := (sameBlocks_answer p cmd tag code body (releaseArray s)).core
  refine ⟨⟨hblocks.congr hcore, ?engine, ?ports⟩, fun _ _ => .of_eq hcore.counters hcore.policy⟩
  case engine =>
    refine EngineFits.core (s := releaseArray s) ?_ hcore
    refine h.engine.congr rfl rfl ?_ rfl rfl rfl
    rw [hheld]
    simp
  case ports =>
    refine h.ports.update (p := p) (fun r hr => ⟨?_, ?_, ?_⟩) hcore.policy hcore.device ?_
    · rw [port_answer, if_neg hr, releaseArray_port]
    · rw [hcore.arbiter, releaseArray_arbiter]
      unfold readerBusy
      rw [hheld, hholds, decide_eq_false fun k => hr k.symm]
      rfl
    · exact outstandingWork_congr hcore.jobs (congrArg Engine.job hcore.engine) hcore.audit r
    · have hbusy : readerBusy (releaseArray s).arbiter p = false := by
        rw [hholds, decide_eq_true rfl, Bool.and_true] at hapart
        unfold readerBusy
        rw [releaseArray_arbiter]
        dsimp only
        rw [hapart]
        rfl
      unfold PortFitsAt
      rw [port_answer, if_pos rfl, releaseArray_port, hcore.arbiter, hbusy, hcore.device, levelMode_congr hcore.policy,
        outstandingWork_congr hcore.jobs (congrArg Engine.job hcore.engine) hcore.audit]
      exact (h.ports p).answered _

/-- The slot of a holding reader is WORKING (R16). -/
theorem Fits.not_burstLost {s : State} (h : Fits s) {p : Port} {e : DirEntry} (hheld : s.arbiter.holder = .reader p e) :
    slotFree (s.port p) ≠ true := by
  intro hfree
  obtain ⟨-, hholds⟩ := h.ports.idle_of_free hfree
  rw [hheld] at hholds
  cases p <;> cases hholds

/-! ### The audit (R166 to R170) -/

theorem Fits.grantedAudit {s : State} (h : Fits s) (hready : s.device = .ready) (hfree : s.arbiter.holder = .none)
    (hdue : grantee s.arbiter = some .audit) :
    Kept s { s with arbiter := { recordGrant .audit s.arbiter with holder := .audit } } := by
  have hclaim : s.arbiter.claims.audit = true := h.blocks.grantee_pending hdue
  obtain ⟨b, e, ports⟩ := h
  have hready' : s.device ≠ .mounting := by rw [hready]; decide
  obtain ⟨hrun, -, hrequester⟩ := b.audit
  have hreads := (Bool.and_eq_true_iff.1 b.reads).2
  rw [hclaim, Bool.true_or] at hrun
  refine ⟨⟨?blocks, ?engine, ?ports⟩, fun _ _ => .of_eq rfl rfl⟩
  case blocks =>
    exact ⟨⟨hrun, rfl, hrequester⟩, fun p => Bool.and_false _, rfl, b.queue, b.kinds, b.sorted, b.entries, b.spans,
      b.table, b.tableSpans, b.policy, b.append, b.cursor, b.repair, b.strips, hreads, b.phase,
      fun hd => absurd hd hready', b.rst, b.supply⟩
  case engine =>
    refine e.congr rfl rfl ?_ rfl rfl rfl
    rw [hfree]
    simp
  case ports =>
    refine ports.congr ⟨fun p => ?_, fun _ => rfl, rfl, rfl⟩ fun p => by cases p <;> rfl
    unfold readerBusy
    rw [hfree]
    cases p <;> rfl

/-- The audit's claim is entered in blocks that fit with no audit running. -/
theorem BlocksFit.auditRuns {b : State} (h : BlocksFit b) (hready : b.device = .ready) (hidle : b.audit.running = false)
    {a : AuditScanner} {r : RepairList} {ar : Arbiter} (hholder : ar.holder = b.arbiter.holder)
    (hclaims : ar.claims = markClaim b.arbiter.claims .audit true) (hdecided : DecidedOk { b with arbiter := ar })
    (hrun : a.running = true) (hrequester : a.requester.isSome = true) (happend : a.capturedAppend.getD 0 ≤ 16384)
    (hcursor : a.capturedCursor.getD 0 ≤ 512) (hwithin : auditWithin a a.stage a.position)
    (hrepair : ∀ e ∈ r.entries, e.word < 16384) : BlocksFit { b with audit := a, repair := r, arbiter := ar } := by
  have hready' : b.device ≠ .mounting := by rw [hready]; decide
  have haudit := h.audit.1
  rw [hidle] at haudit
  obtain ⟨-, hheld⟩ := Bool.or_eq_false_iff.1 haudit.symm
  refine ⟨⟨?_, ?_, fun _ => hrequester⟩, fun p => ?_, hdecided, h.queue, h.kinds, h.sorted, h.entries, h.spans, h.table,
    h.tableSpans, h.policy, h.append, h.cursor, hrepair, h.strips, ?_, h.phase, fun hd => absurd hd hready', h.rst,
    h.supply⟩
  · dsimp only
    rw [hrun, hclaims]
    rfl
  · dsimp only
    rw [hholder, hheld, Bool.and_false]
  · have hapart := h.apart p
    dsimp only
    rw [hholder, hclaims]
    cases p <;> exact hapart
  · have hreads := (Bool.and_eq_true_iff.1 h.reads).1
    unfold readsInArray
    dsimp only
    rw [hholder, hreads, hrun, decide_eq_true happend, decide_eq_true hcursor]
    unfold auditWithin at hwithin
    cases hs : a.stage with
    | records => rw [hs] at hwithin; exact decide_eq_true hwithin
    | strips => rw [hs] at hwithin; exact decide_eq_true hwithin

/-- A stopped audit asks nothing of its scanner. -/
theorem BlocksFit.auditStops {b : State} (h : BlocksFit b) (hidle : b.audit.running = false) {a : AuditScanner}
    {r : RepairList} (hrun : a.running = false) (hrepair : ∀ e ∈ r.entries, e.word < 16384) :
    BlocksFit { b with audit := a, repair := r } := by
  have haudit := h.audit
  unfold AuditOk at haudit
  rw [hidle] at haudit
  obtain ⟨hfree, hapart, -⟩ := haudit
  refine ⟨⟨hrun.trans hfree, hapart, fun hr => absurd hr (by rw [hrun]; decide)⟩, h.apart, h.decided, h.queue, h.kinds,
    h.sorted, h.entries, h.spans, h.table, h.tableSpans, h.policy, h.append, h.cursor, hrepair, h.strips, ?_, h.phase,
    fun hd => ?_, h.rst, h.supply⟩
  · have hreads := (Bool.and_eq_true_iff.1 h.reads).1
    unfold readsInArray
    dsimp only
    rw [hreads, hrun]
    rfl
  · obtain ⟨hjobs, -, hnone, hclaims⟩ := h.still hd
    exact ⟨hjobs, hrun, hnone, hclaims⟩

/-- The end of an audit at its requester's port (R26, R170). -/
theorem PortsFit.auditCompleted {w : State} (h : PortsFit w) (hready : w.device = .ready) (hrun : w.audit.running = true)
    (hrequester : w.audit.requester.isSome = true) : PortsFit (completeAudit w) := by
  obtain ⟨⟨port, tag⟩, hreq⟩ := Option.isSome_iff_exists.1 hrequester
  have same := sameBlocks_completeAudit w
  have hwork : ∀ p, outstandingWork w p = outstandingWork (completeAudit w) p + if p = port then 1 else 0 := by
    intro p
    have hjobs := same.jobs
    have hengine := same.engine
    have haudit := same.audit
    simp only [outstandingWork, hjobs, hengine, haudit, hreq, hrun, Option.any_some]
    by_cases hp : p = port
    · subst hp; simp
    · have hne : (port == p) = false := beq_eq_false_iff_ne.2 fun k => hp k.symm
      simp [hp, hne]
  intro p
  have hfit := h p
  unfold PortFitsAt at hfit ⊢
  rw [hwork] at hfit
  rw [port_completeAudit hreq, same.arbiter, same.device, levelMode_congr same.policy]
  by_cases hp : p = port
  · rw [if_pos hp] at hfit ⊢
    have hdevice : ({ w with audit := { w.audit with running := false } } : State).device = .ready := hready
    rw [hdevice]
    rw [hready] at hfit
    exact hfit.jobEnded _ _
  · rw [if_neg hp] at hfit ⊢
    exact hfit

/-- The blocks with the array released by the audit and the audit stopped fit. -/
theorem BlocksFit.auditStopped {s : State} (h : BlocksFit s) (hheld : s.arbiter.holder = .audit) :
    BlocksFit { releaseArray s with audit := { s.audit with running := false } } := by
  have hne : s.arbiter.holder ≠ .none := by rw [hheld]; decide
  have hready' : s.device ≠ .mounting := by rw [h.ready_of_held hne]; decide
  obtain ⟨-, hapart, -⟩ := h.audit
  rw [hheld, decide_eq_true rfl, Bool.and_true] at hapart
  refine ⟨⟨?_, Bool.and_false _, fun hr => by cases hr⟩, fun p => Bool.and_false _,
    decidedOk_of_none (h.undecided hne), h.queue, h.kinds, h.sorted, h.entries, h.spans, h.table, h.tableSpans, h.policy,
    h.append, h.cursor, h.repair, h.strips, rfl, h.phase, fun hd => absurd hd hready', h.rst, h.supply⟩
  rw [releaseArray_arbiter]
  dsimp only
  rw [hapart]
  rfl

/-- A held audit runs for a requester. -/
theorem BlocksFit.audit_held {s : State} (h : BlocksFit s) (hheld : s.arbiter.holder = .audit) :
    s.audit.running = true ∧ s.audit.requester.isSome = true := by
  obtain ⟨hrunning, -, hrequester⟩ := h.audit
  have hrun : s.audit.running = true := by rw [hrunning, hheld]; exact Bool.or_true _
  exact ⟨hrun, hrequester hrun⟩

theorem EngineFits.released {s t : State} (h : EngineFits s) (hheld : s.arbiter.holder ≠ .engine)
    (hengine : t.engine = s.engine) (hclaim : t.arbiter.claims.engine = s.arbiter.claims.engine)
    (hdevice : t.device = s.device) (hdirectory : t.directory = s.directory) (hcounters : t.counters = s.counters) :
    EngineFits (releaseArray t) := by
  refine h.congr hengine hclaim ?_ hdevice hdirectory hcounters
  rw [releaseArray_arbiter]
  simp [hheld]

/-- A held audit whose unit has ended claims the next one (R167). -/
theorem Fits.auditClaims {s : State} (h : Fits s) (hheld : s.arbiter.holder = .audit) {stage : AuditStage}
    {position : Nat} (hmore : auditWithin s.audit stage position) {x : AuditTally}
    (hrepair : ∀ e ∈ x.entries, e.word < 16384) :
    Kept s (releaseArray (enterClaim .audit (s.walkedTo stage position x))) := by
  obtain ⟨b, e, ports⟩ := h
  have hne : s.arbiter.holder ≠ .none := by rw [hheld]; decide
  obtain ⟨hrun, hrequester⟩ := b.audit_held hheld
  obtain ⟨happend, hcursor, -, -⟩ := audit_bounds b.reads hrun
  have hdecided : (claimEntered .audit s.arbiter).decided = none := by
    rw [claimEntered_decided, hheld]
    simpa using b.undecided hne
  refine ⟨⟨?blocks, e.released (by rw [hheld]; decide) rfl rfl rfl rfl rfl, ?ports⟩, fun _ _ => .of_eq rfl rfl⟩
  case blocks =>
    refine (b.auditStopped hheld).auditRuns (a := { s.audit with
        stage := stage, position := position, findings := x.findings, overflow := x.overflow, added := x.added,
        dropped := x.dropped })
      (r := { s.repair with entries := x.entries }) (ar := { claimEntered .audit s.arbiter with holder := .none })
      (b.ready_of_held hne) rfl rfl rfl (decidedOk_of_none hdecided) hrun hrequester happend hcursor ?_ hrepair
    cases stage <;> exact hmore
  case ports =>
    refine ports.congr ⟨fun p => ?_, fun _ => rfl, rfl, rfl⟩ fun p => by cases p <;> rfl
    unfold readerBusy
    rw [hheld]
    cases p <;> rfl

/-- A held audit whose last unit has ended completes (R170). -/
theorem Fits.auditCompletes {s : State} (h : Fits s) (hheld : s.arbiter.holder = .audit) (stage : AuditStage)
    (position : Nat) {x : AuditTally} (hrepair : ∀ e ∈ x.entries, e.word < 16384) :
    Kept s (releaseArray (completeAudit (s.walkedTo stage position x))) := by
  obtain ⟨b, e, ports⟩ := h
  have hne : s.arbiter.holder ≠ .none := by rw [hheld]; decide
  obtain ⟨hrun, hrequester⟩ := b.audit_held hheld
  have same := sameBlocks_completeAudit (s.walkedTo stage position x)
  have hports : PortsFit (s.walkedTo stage position x) :=
    ports.congr ⟨fun _ => rfl, fun _ => rfl, rfl, rfl⟩ fun p => by cases p <;> rfl
  refine ⟨⟨?blocks, e.released (by rw [hheld]; decide) same.engine (by rw [same.arbiter]; rfl) same.device same.directory
    same.counters, ?ports⟩, fun _ _ => .of_eq same.counters same.policy⟩
  case blocks =>
    refine ((b.auditStopped hheld).auditStops (a := { (s.walkedTo stage position x).audit with running := false })
      (r := (s.walkedTo stage position x).repair) rfl rfl hrepair).congr ?_
    exact ⟨same.array, same.powered, same.rstLow, same.pgmEn, same.device, same.mount, same.policy, same.directory,
      same.counters, same.log, same.repair, same.engine, same.jobs,
      congrArg (fun a : Arbiter => { a with holder := Holder.none }) same.arbiter, same.audit⟩
  case ports =>
    refine (hports.auditCompleted (b.ready_of_held hne) hrun hrequester).congr
      ⟨fun p => ?_, fun _ => rfl, rfl, rfl⟩ fun p => by simp
    have hholder : (completeAudit (s.walkedTo stage position x)).arbiter.holder = .audit := by
      rw [same.arbiter]; exact hheld
    unfold readerBusy
    rw [releaseArray_arbiter, hholder]
    rfl

/-- The unit of a held audit ends: it claims again, or completes (R167, R170). -/
theorem Fits.audited {s : State} (h : Fits s) (hheld : s.arbiter.holder = .audit) : Kept s (endAuditUnit s) := by
  obtain ⟨happend, -, -, hstrips⟩ := audit_bounds h.blocks.reads (h.blocks.audit_held hheld).1
  have hcursor : s.audit.stage = .strips → s.audit.position < 512 := fun hs =>
    Nat.lt_of_lt_of_le (hstrips hs) (audit_bounds h.blocks.reads (h.blocks.audit_held hheld).1).2.1
  obtain ⟨x, t, hend, hgoes, hentries⟩ := endAuditUnit_goesOn s
  have hrepair : ∀ e ∈ x.entries, e.word < 16384 := by
    intro r hr
    rcases hentries r hr with hr | hlt | ⟨hs, hlt⟩
    · exact h.blocks.repair r hr
    · omega
    · have := hcursor hs
      omega
  rw [hend]
  cases hgoes with
  | claims stage position hmore => exact h.auditClaims hheld hmore hrepair
  | completes stage position => exact h.auditCompletes hheld stage position hrepair

/-- An accepted AUDIT: the captures, then the first claim or the end at once (R166, R170). -/
theorem Fits.auditing {s : State} (h : Fits s) {p : Port} (hready : s.device = .ready)
    (hfree : slotFree (s.port p) = true) (tag : Byte) (touchUp : Bool) (hidle : s.audit.running = false)
    (hquota : quotaReached (s.port p) = false) :
    Kept s (startAudit p tag touchUp
      (answer p (commandCode .audit) tag .accepted []
        ((s.taken p).setPort p
          { (s.taken p).port p with outstanding := ((s.taken p).port p).outstanding + 1 }))) := by
  have halone := ((portAlone_taken p s).modify fun q => { q with outstanding := q.outstanding + 1 }).answer
    (commandCode .audit) tag .accepted []
  generalize answer p (commandCode .audit) tag .accepted [] ((s.taken p).setPort p
    { (s.taken p).port p with outstanding := ((s.taken p).port p).outstanding + 1 }) = v at halone ⊢
  have b := h.blocks.congr halone.core
  have e := h.engine.core halone.core
  have hready' : v.device = .ready := halone.core.device.trans hready
  have hidle' : v.audit.running = false := by rw [halone.core.audit]; exact hidle
  have hrises : Rises s v := .of_eq halone.core.counters halone.core.policy
  have hports : PortsFit { v with audit := auditStarted v p tag touchUp .records 4134 } := by
    have hwork : ∀ r, outstandingWork { v with audit := auditStarted v p tag touchUp .records 4134 } r =
        outstandingWork s r + if p = r then 1 else 0 := by
      intro r
      have hengine := halone.core.engine
      have hjobs := halone.core.jobs
      simp only [outstandingWork, hengine, hjobs, hidle, auditStarted, Option.any_some]
      by_cases hr : p = r <;> simp [hr]
    refine h.ports.update (p := p) (fun r hr => ⟨?_, ?_, ?_⟩) halone.core.policy halone.core.device ?_
    · rw [← halone.others r hr]; cases r <;> rfl
    · exact congrArg (readerBusy · r) halone.core.arbiter
    · rw [hwork, if_neg fun k => hr k.symm]; rfl
    · have hport : State.port { v with audit := auditStarted v p tag touchUp .records 4134 } p = v.port p := by
        cases p <;> rfl
      have hlevel : levelMode { v with audit := auditStarted v p tag touchUp .records 4134 } p = levelMode s p :=
        levelMode_congr halone.core.policy p
      unfold PortFitsAt
      rw [hwork, if_pos rfl, hport, halone.here, hlevel]
      change PortFits (readerBusy v.arbiter p) _ _ v.device _
      rw [halone.core.arbiter, halone.core.device]
      exact (h.ports p).workAdded hready hfree hquota _ _
  have hgoes := goesOn_startAudit p tag touchUp v
  generalize startAudit p tag touchUp v = t at hgoes ⊢
  cases hgoes with
  | claims stage position hmore =>
    refine ⟨⟨?_, e.congr rfl rfl Iff.rfl rfl rfl rfl, ?_⟩, fun _ _ => hrises.trans (.of_eq rfl rfl)⟩
    · refine b.auditRuns (a := auditStarted v p tag touchUp stage position) (r := v.repair)
        (ar := claimEntered .audit v.arbiter) hready' hidle' rfl rfl (decidedOk_enterClaim b.decided .audit) rfl rfl
        b.append b.cursor ?_ b.repair
      cases stage <;> exact hmore
    · refine hports.congr ⟨fun r => ?_, fun _ => rfl, rfl, rfl⟩ fun r => by cases r <;> rfl
      cases r <;> rfl
  | completes stage position =>
    generalize hw : State.walkedTo { v with audit := auditStarted v p tag touchUp .records 4134 } stage position
      ⟨[], 0, 0, 0, v.repair.entries⟩ = w
    have same := sameBlocks_completeAudit w
    subst hw
    have hwalked : PortsFit (State.walkedTo { v with audit := auditStarted v p tag touchUp .records 4134 } stage position
        ⟨[], 0, 0, 0, v.repair.entries⟩) :=
      hports.congr ⟨fun _ => rfl, fun _ => rfl, rfl, rfl⟩ fun r => by cases r <;> rfl
    refine ⟨⟨?_, ?_, hwalked.auditCompleted hready' rfl rfl⟩,
      fun _ _ => hrises.trans (.of_eq same.counters same.policy)⟩
    · exact (b.auditStops (a := { auditStarted v p tag touchUp stage position with running := false }) (r := v.repair)
        hidle' rfl b.repair).congr same.core
    · exact e.congr same.engine (by rw [same.arbiter]; rfl) (by rw [same.arbiter]; exact Iff.rfl) same.device
        same.directory same.counters

end Sys2Proof.Machine
end

section
/-! The device reset and the mount keep the invariant (R112 to R124, R177). -/

namespace Sys2Proof.Machine

/-! ### While MOUNTING -/

theorem of_mountDue {s : State} {ph : MountPhase} (h : mountDue s ph = true) :
    s.device = .mounting ∧ s.rstLow = false ∧ s.mount.phase = ph := by
  simp only [mountDue, Bool.and_eq_true, decide_eq_true_eq, Bool.not_eq_true'] at h
  obtain ⟨⟨⟨hdevice, -⟩, hrst⟩, hphase⟩ := h
  exact ⟨hdevice, hrst, hphase⟩

/-- A part that is MOUNTING keeps nothing to rise. -/
theorem Kept.of_mounting {s t : State} (h : Fits t) (hmounting : s.device = .mounting) : Kept s t :=
  ⟨h, fun hs => by rw [hmounting] at hs; cases hs⟩

/-- While MOUNTING no line is judged, whatever the copy. -/
theorem PortFits.mounting {busy : Bool} {work : Nat} {level : Bool} {q : PortState}
    (h : PortFits busy work level .mounting q) (level' : Bool) : PortFits busy work level' .mounting q :=
  ⟨h.slot, h.reply, h.outstanding, h.most, h.share, (fun hd => by cases hd), h.quiet⟩

/-- A phase of the mount sets its scanner, copy, counters, log and repair list, and leaves the part MOUNTING. -/
theorem Fits.mountPhase {s : State} (h : Fits s) (hmounting : s.device = .mounting) (hrst : s.rstLow = false)
    {m : MountScanner} {policy : List Word} {counters : List CounterEntry} {log : LogAllocator} {repair : RepairList}
    (hphase : m.phase ≠ .ready) (htable : m.keyTable.length ≤ 1024)
    (hspans : ∀ k ∈ m.keyTable, spanInArray k.winner.location k.winner.header.w = true)
    (hpolicy : policy.length = 38 ∧ ∀ i ∈ List.range 38, policy.getD i 0#32 &&& ~~~ readNormal s.array i = 0#32)
    (happend : log.appendPoint ≤ 16384) (hcursor : log.stripCursor ≤ 512) (hrepair : ∀ e ∈ repair.entries, e.word < 16384)
    (hstrips : ∀ e ∈ counters, e.strip.all (fun n => decide (n < 512)) = true) :
    Kept s { s with mount := m, policy := policy, counters := counters, log := log, repair := repair } := by
  have hidle := h.engine.resting hmounting
  obtain ⟨-, -, hnone, hclaims⟩ := h.blocks.still hmounting
  refine .of_mounting ⟨?blocks, ?engine, fun p => ?port⟩ hmounting
  case blocks =>
    have b := h.blocks
    exact ⟨b.audit, b.apart, b.decided, b.queue, b.kinds, b.sorted, b.entries, b.spans, htable, hspans, fun _ => hpolicy,
      happend, hcursor, hrepair, hstrips, b.reads,
      ⟨(fun hd => by rw [hmounting] at hd; cases hd), fun hp => absurd hp hphase⟩, b.still,
      (fun hr => by rw [hrst] at hr; cases hr), b.supply⟩
  case engine => exact .idle hidle (by rw [hclaims]) (by rw [hnone]; decide)
  case port =>
    have hfit := h.ports p
    unfold PortFitsAt at hfit ⊢
    rw [hmounting] at hfit ⊢
    cases p <;> exact hfit.mounting _

/-! ### OPTIONS -/

theorem Fits.optionsDone {s : State} (h : Fits s) (hdue : mountDue s .options = true) : Kept s (finishOptions s) := by
  obtain ⟨hmounting, hrst, -⟩ := of_mountDue hdue
  refine h.mountPhase hmounting hrst (m := { s.mount with phase := .strips }) (policy := optionBlock s.array)
    (fun hp => by cases hp) h.blocks.table h.blocks.tableSpans ⟨by simp [optionBlock, Config.optionWords], fun i hi => ?_⟩
    h.blocks.append h.blocks.cursor h.blocks.repair h.blocks.strips
  have hlt : i < 38 := List.mem_range.1 hi
  have hcopy : (optionBlock s.array).getD i 0#32 = readNormal s.array i := by
    simp [optionBlock, Config.optionWords, List.getD_eq_getElem?_getD, hlt]
  rw [hcopy]
  exact BitVec.and_not_self _

/-! ### STRIPS -/

theorem mem_mountOffers {x : RepairEntry} {es : List RepairEntry} : ∀ {s : State},
    x ∈ (mountOffers es s).repair.entries → x ∈ s.repair.entries ∨ x ∈ es := by
  induction es with
  | nil => exact fun hx => .inl hx
  | cons e es ih =>
    intro s hx
    rcases ih (s := mountOffer s e) hx with hx | hx
    · have hstep : x ∈ s.repair.entries ∨ x = e := by
        unfold mountOffer at hx
        dsimp only at hx
        split at hx
        · exact .inl hx
        · rcases offer_cases s.repair e with hsame | ⟨hadded, -, -⟩
          · exact .inl (hsame ▸ hx)
          · have hx' : x ∈ (offer s.repair e).entries := hx
            rw [hadded] at hx'
            simpa using hx'
      exact hstep.imp_right fun he => List.mem_cons.2 (.inl he)
    · exact .inr (List.mem_cons_of_mem _ hx)

theorem mountCursor_le (m : Memory) : mountCursor m ≤ 512 := by
  obtain ⟨-, hlast⟩ := foldl_mountCursor m Config.stripCount
  change ∀ i, mountCursor m = i + 1 → i < 512 ∧ _ at hlast
  cases hc : mountCursor m with
  | zero => exact Nat.zero_le _
  | succ i => exact (hlast i hc).1

theorem strip_of_mem_mountCounters {m : Memory} {e : CounterEntry} (he : e ∈ mountCounters m) :
    e.strip.all (fun n => decide (n < 512)) = true := by
  obtain ⟨c, -, rfl⟩ := List.mem_map.1 he
  obtain ⟨-, hsome⟩ := currentAmong_foldl m c Config.stripCount
  change ∀ x b, currentStrip m c = some (x, b) → x < 512 ∧ _ at hsome
  unfold mountCounter
  cases hcurrent : currentStrip m c with
  | none => rfl
  | some y => exact decide_eq_true (hsome y.1 y.2 hcurrent).1

theorem word_of_mem_claimOffers {m : Memory} {counters : List CounterEntry} {e : RepairEntry}
    (he : e ∈ claimOffers m counters) : e.word < 16384 := by
  rw [claimOffers_eq] at he
  obtain ⟨n, hn, rfl⟩ := List.mem_map.1 he
  have hlt : n < 512 := List.mem_range.1 (List.mem_filter.1 hn).1
  change 39 + 8 * n < 16384
  omega

theorem Fits.stripsDone {s : State} (h : Fits s) (hdue : mountDue s .strips = true) : Kept s (finishStrips s) := by
  obtain ⟨hmounting, hrst, hphase⟩ := of_mountDue hdue
  have hrepair : ∀ e ∈ (mountOffers (claimOffers s.array (mountCounters s.array)) s).repair.entries, e.word < 16384 :=
    fun e he => (mem_mountOffers he).elim (h.blocks.repair e) word_of_mem_claimOffers
  rw [finishStrips_eq, mountOffers_frame]
  have hcursor := mountCursor_le s.array
  generalize mountCursor s.array = cursor at hcursor ⊢
  generalize mountOffers (claimOffers s.array (mountCounters s.array)) s = offered at hrepair ⊢
  exact h.mountPhase hmounting hrst (fun hp => by cases hp) h.blocks.table h.blocks.tableSpans
    (h.blocks.policy (by rw [hphase]; decide)) h.blocks.append hcursor hrepair fun _ => strip_of_mem_mountCounters

/-! ### RECORDS -/

theorem length_admitWinners_le (ws : List FoundRecord) : (admitWinners ws).length ≤ 1024 := by
  unfold admitWinners
  split
  · assumption
  · exact List.length_take_le _ _

theorem word_of_mem_recordOffers {found admitted : List FoundRecord}
    (hfound : ∀ r ∈ found, r.location + 4 + r.header.w < 16384) {e : RepairEntry} (he : e ∈ recordOffers found admitted) :
    e.word < 16384 := by
  obtain ⟨r, hr, hoffer⟩ := List.mem_filterMap.1 he
  have hlt := hfound r hr
  unfold recordOffer at hoffer
  split at hoffer
  · cases hoffer
    exact hlt
  · split at hoffer
    · cases hoffer
      change r.location + 3 + r.header.w < 16384
      omega
    · cases hoffer

theorem Fits.recordsDone {s : State} (h : Fits s) (hdue : mountDue s .records = true) : Kept s (finishRecords s) := by
  obtain ⟨hmounting, hrst, hphase⟩ := of_mountDue hdue
  obtain ⟨starts, hwalk⟩ := walkRecords_ok s.array Config.recordWords Config.recordStart none (by decide) (by decide)
  change WalkOk s.array Config.recordStart none (recordWalk s.array) starts at hwalk
  have hfound : ∀ r ∈ (recordWalk s.array).found, r.location + 4 + r.header.w < 16384 := fun r hr =>
    spanHeader_fits (hwalk.reads r hr).1
  have hstop : (recordWalk s.array).stop ≤ 16384 := by
    rcases hwalk.stop with hstop | ⟨hstop, -⟩ <;> omega
  rw [finishRecords_eq s rfl rfl]
  refine h.mountPhase hmounting hrst (fun hp => by cases hp) ?table (fun k hk => ?span)
    (h.blocks.policy (by rw [hphase]; decide)) hstop h.blocks.cursor
    (fun e he => (mem_mountOffers he).elim (h.blocks.repair e) (word_of_mem_recordOffers hfound)) h.blocks.strips
  case table =>
    change (List.map _ _).length ≤ 1024
    rw [List.length_map]
    exact length_admitWinners_le _
  case span =>
    obtain ⟨x, hx, rfl⟩ := List.mem_map.1 hk
    exact decide_eq_true (hfound x (mem_winners (mem_admitWinners hx)).1)

/-! ### SORT -/

/-- The directory built of any key table is in key order, no longer than the table, and of its winners (R66, R121). -/
theorem buildDirectory_bounds (table : List KeyRecord) :
    (buildDirectory table).Pairwise (fun x y => x.key < y.key) ∧ (buildDirectory table).length ≤ table.length ∧
      ∀ e ∈ buildDirectory table, ∃ k ∈ table, e = winnerEntry k := by
  induction table using List.reverseRecOn with
  | nil => exact ⟨List.Pairwise.nil, Nat.le_refl _, fun e he => (List.not_mem_nil he).elim⟩
  | append_singleton table k ih =>
    obtain ⟨hsorted, hlength, hwinners⟩ := ih
    have hbuild : buildDirectory (table ++ [k]) = dirPut (buildDirectory table) (winnerEntry k) := by
      rw [buildDirectory, List.foldl_append]; rfl
    rw [hbuild]
    refine ⟨pairwise_dirPut hsorted _, ?_, fun e he => ?_⟩
    · rw [List.length_append, List.length_singleton]
      exact (length_dirPut_le _ _).trans (Nat.succ_le_succ hlength)
    · rcases InEvent.mem_dirPut he with rfl | he
      · exact ⟨k, List.mem_append_right _ (List.mem_singleton_self k), rfl⟩
      · obtain ⟨x, hx, hxe⟩ := hwinners e he
        exact ⟨x, List.mem_append_left _ hx, hxe⟩

/-- A quiet port fits a part that turns READY, in either mode. -/
theorem PortFits.turnsReady {busy : Bool} {work : Nat} {level : Bool} {q : PortState}
    (h : PortFits busy work level .mounting q) (level' : Bool) : PortFits busy work level' .ready q :=
  ⟨h.slot, h.reply, h.outstanding, h.most, h.share, fun _ => lineFits_of_quiet (h.quiet rfl) level',
    fun hd => by cases hd⟩

/-- A notice posted at a READY part leaves every port fit (R146, R151, R152). -/
theorem PortsFit.postNotice {s : State} (h : PortsFit s) (hready : s.device = .ready) (n : Notice) :
    PortsFit (Machine.postNotice n s) := by
  intro p
  have hfit : PortFitsAt s p ((Machine.postNotice n s).port p) := by
    rw [port_postNotice]
    split
    · have hfit := h p
      unfold PortFitsAt at hfit ⊢
      rw [hready] at hfit ⊢
      rw [port_arriveNotice_noticed]
      exact hfit.noticed n
    · exact h p
  exact hfit.congr (sameBlocks_postNotice n s).core.demands

theorem Fits.sortDone {s : State} (h : Fits s) (hdue : mountDue s .sort = true) : Kept s (finishSort s) := by
  obtain ⟨hmounting, hrst, hphase⟩ := of_mountDue hdue
  obtain ⟨hsorted, hlength, hwinners⟩ := buildDirectory_bounds s.mount.keyTable
  have hidle := h.engine.resting hmounting
  obtain ⟨-, -, hnone, hclaims⟩ := h.blocks.still hmounting
  unfold finishSort
  dsimp only
  generalize hu : ({ s with
    directory := buildDirectory s.mount.keyTable
    device := .ready
    mount := { s.mount with
      phase := .ready
      walk := Config.recordStart
      keyTable := []
      greatest := none
      report := { s.mount.report with
        live := countState (buildDirectory s.mount.keyTable) .live
        deleted := countState (buildDirectory s.mount.keyTable) .deleted
        lost := countState (buildDirectory s.mount.keyTable) .lost } } } : State) = u
  have hready : u.device = .ready := by rw [← hu]
  have hblocks : BlocksFit u := by
    subst hu
    have b := h.blocks
    refine ⟨b.audit, b.apart, b.decided, b.queue, b.kinds, hsorted, hlength.trans b.table, fun e he => ?_, Nat.zero_le _,
      fun k hk => (List.not_mem_nil hk).elim, fun _ => b.policy (by rw [hphase]; decide), b.append, b.cursor, b.repair,
      b.strips, b.reads, ⟨fun _ => rfl, fun _ => rfl⟩, (fun hd => by cases hd), (fun hr => by rw [hrst] at hr; cases hr),
      b.supply⟩
    obtain ⟨k, hk, rfl⟩ := hwinners e he
    exact b.tableSpans k hk
  have hengine : EngineFits u := by
    subst hu
    exact .idle hidle (by rw [hclaims]) (by rw [hnone]; decide)
  have hports : PortsFit u := by
    subst hu
    intro p
    have hfit := h.ports p
    unfold PortFitsAt at hfit
    rw [hmounting] at hfit
    cases p <;> exact hfit.turnsReady _
  have same := (sameBlocks_postNotice mountDoneNotice u).core
  exact .of_mounting ⟨hblocks.congr same, hengine.core same, hports.postNotice hready _⟩ hmounting

/-! ### Reset and release -/

/-- A device reset leaves the reset values, whatever the array and PGM_EN (R113). -/
theorem fits_afterReset (s : State) (array : Memory) (powered : Bool) :
    Fits { afterReset array s with powered := powered } := by
  have r := Inv.fits resetMeetsInvariant
  have b := r.blocks
  refine ⟨⟨b.audit, b.apart, b.decided, b.queue, b.kinds, b.sorted, b.entries, b.spans, b.table, b.tableSpans,
    fun hp => absurd rfl hp, b.append, b.cursor, b.repair, b.strips, b.reads, b.phase, b.still, b.rst, fun _ => rfl⟩,
    .idle rfl rfl (fun hh => by cases hh), fun p => ?_⟩
  cases p
  · exact r.ports .a
  · exact r.ports .b
  · exact r.ports .c

theorem kept_reset {s : State} (array : Memory) (powered : Bool) :
    Kept s { afterReset array s with powered := powered } :=
  ⟨fits_afterReset s array powered, fun _ ht => by cases ht⟩

/-- The return of RST, the mount not begun (R177). -/
theorem Fits.released {s : State} (h : Fits s) (adr : BitVec 2) :
    Kept s { s with powered := true, rstLow := false, portCAdr := adr } := by
  have b := h.blocks
  refine ⟨⟨⟨b.audit, b.apart, b.decided, b.queue, b.kinds, b.sorted, b.entries, b.spans, b.table, b.tableSpans, b.policy,
    b.append, b.cursor, b.repair, b.strips, b.reads, b.phase, b.still, (fun hr => by cases hr), fun hp => by cases hp⟩,
    h.engine.congr rfl rfl Iff.rfl rfl rfl rfl, h.ports.congr ⟨fun _ => rfl, fun _ => rfl, rfl, rfl⟩ fun p => ?_⟩,
    fun _ _ => .of_eq rfl rfl⟩
  cases p <;> rfl

end Sys2Proof.Machine
end

section
/-! Every command keeps the invariant; the obligations that say so. -/

namespace Sys2Proof.Machine

/-! ### One port -/

theorem Fits.fetched {s : State} (h : Fits s) (sel : Selector) (p : Port) : Kept s (fetchEffect sel p s) := by
  obtain ⟨q, hleaves, halone⟩ := fetchEffect_leaves sel p s
  exact h.alone halone ((h.ports p).fetched hleaves)

/-- A pulse is active in PULSE mode of a READY part alone; its end releases the line (R152). -/
theorem Fits.pulseEnded {s : State} (h : Fits s) {p : Port} (hactive : (s.port p).pulseActive = true) :
    Kept s (s.setPort p { s.port p with pulseActive := false, lineLow := false }) := by
  refine h.alone ((PortAlone.refl s p).setPort _) ?_
  have hfit := h.ports p
  unfold PortFitsAt at hfit ⊢
  cases hd : s.device with
  | mounting =>
    have hquiet := hfit.quiet hd
    simp [portQuiet, hactive] at hquiet
  | ready =>
    have hline := hfit.line hd
    rw [hd] at hfit
    refine hfit.withLine rfl rfl rfl rfl ⟨fun hlevel => ?_, fun _ => rfl⟩
    have hnone := (hline.1 hlevel).2
    rw [hactive] at hnone
    cases hnone

/-- A taken frame's command at a READY part keeps what fits. -/
theorem Fits.handled {s t : State} {p : Port} (h : Fits s) (hready : s.device = .ready)
    (hfree : slotFree (s.port p) = true) (ht : Handled p (s.taken p) t) : Kept s t := by
  have htaken := portAlone_taken p s
  have hnotMounting : s.device = .mounting → False := fun hd => by rw [hready] at hd; cases hd
  have hquota : ∀ {on}, quotaReached ((s.taken p).port p) = on → quotaReached (s.port p) = on := fun hq => by
    rw [htaken.here] at hq
    exact hq
  cases ht with
  | reading tag key =>
    exact h.reading hready hfree (htaken.modify fun q => { q with slot := .working ⟨tag, key⟩, reply := none })
  | subscribed tag x =>
    exact h.alone ((htaken.modify fun q => { q with subs := q.subs ++ [x] }).answer ..)
      ((h.ports p).frameAnswered hfree rfl rfl rfl (Nat.le_refl _) (h.ports p).line (h.ports p).quiet)
  | unsubscribed tag x =>
    exact h.alone ((htaken.modify fun q => { q with subs := q.subs.filter (fun y => y ≠ x) }).answer ..)
      ((h.ports p).frameAnswered hfree rfl rfl rfl (Nat.le_refl _) (h.ports p).line (h.ports p).quiet)
  | masked tag m =>
    refine h.alone ((htaken.modify fun q => { q with mask := m }).judge.answer ..)
      ((h.ports p).frameAnswered hfree rfl rfl rfl (Nat.le_refl _) (fun hd => ?_) fun hd => (hnotMounting hd).elim)
    obtain ⟨hpulse, hline⟩ := ((h.ports p).line hd).pulse
    exact lineFits_judged (q := { s.port p with mask := m }) hpulse hline
  | emptied tag => exact h.emptied hready hfree tag
  | accepted cmd tag k hkind hq hroom =>
    exact h.accepted hready hfree cmd tag hkind (hquota hq) (by rw [← htaken.core.jobs]; exact hroom)
  | auditing tag touchUp hidle hq =>
    exact h.auditing hready hfree tag touchUp (by rw [← htaken.core.audit]; exact hidle) (hquota hq)

/-! ### Every command -/

/-- The ports, and all they are judged by, are the same. -/
theorem Fits.samePorts {s t : State} (h : Fits s) (hports : ∀ p, t.port p = s.port p) (hengine : EngineFits t)
    (hblocks : BlocksFit t) (hdemands : SameDemands s t) (hcounters : t.counters = s.counters) : Kept s t :=
  ⟨⟨hblocks, hengine, h.ports.congr hdemands hports⟩, fun _ _ => .of_eq hcounters hdemands.policy⟩

theorem Fits.raised {s : State} (h : Fits s) : Kept s { s with pgmEn := true } := by
  have b := h.blocks
  exact h.samePorts (fun p => by cases p <;> rfl) (h.engine.congr rfl rfl Iff.rfl rfl rfl rfl)
    ⟨b.audit, b.apart, b.decided, b.queue, b.kinds, b.sorted, b.entries, b.spans, b.table, b.tableSpans, b.policy, b.append,
      b.cursor, b.repair, b.strips, b.reads, b.phase, b.still, b.rst, b.supply⟩
    ⟨fun _ => rfl, fun _ => rfl, rfl, rfl⟩ rfl

theorem Fits.selected {s : State} (h : Fits s) (sel : Selector) : Kept s { s with lastSelector := sel } :=
  have hcore : SameCore s { s with lastSelector := sel } :=
    ⟨rfl, rfl, rfl, rfl, rfl, rfl, rfl, rfl, rfl, rfl, rfl, rfl, rfl, rfl, rfl⟩
  h.samePorts (fun p => by cases p <;> rfl) (h.engine.core hcore) (h.blocks.congr hcore) hcore.demands rfl

/-- What a command leaves of a state that fits fits, and lowers nothing of a READY part. -/
theorem kept_of_happens {s t : State} (hwf : Memory.wf s.array = true) (h : Fits s) (ht : Happens s t) : Kept s t := by
  cases ht with
  | nothing => exact ⟨h, fun _ _ => .refl s⟩
  | reset cut powered => exact kept_reset _ powered
  | released adr => exact h.released adr
  | options hdue => exact h.optionsDone hdue
  | strips hdue => exact h.stripsDone hdue
  | records hdue => exact h.recordsDone hdue
  | sorted hdue => exact h.sortDone hdue
  | rise => exact h.raised
  | fall cut => exact h.fall hwf cut
  | truncated p => exact h.alone (portAlone_truncated p s) ((h.ports p).withFlags _ _ _)
  | discarded p => exact h.alone (portAlone_discarded p s) ((h.ports p).withFlags _ _ _)
  | answered p hfree cmd tag code body => exact h.answered hfree cmd tag code body
  | handled p hfree hready ht => exact h.handled hready hfree ht
  | fetched sel p => exact h.fetched sel p
  | selected sel => exact h.selected sel
  | jobTaken j rest hhead => exact h.jobTaken hhead
  | repairTaken e hready hidle hmem => exact h.repairTaken hready hidle hmem
  | grantedEngine q hready hfree hdue hseq => exact h.grantedEngine hready hfree hdue hseq
  | grantedIdle _ _ hdue hseq => exact absurd hseq (h.not_grantedIdle hdue)
  | grantedReader p hready hfree hdue => exact h.grantedReader hready hfree hdue
  | grantedAudit hready hfree hdue => exact h.grantedAudit hready hfree hdue
  | pulsed q e hrun => exact h.pulsed hwf hrun e
  | pulseEnded p hactive => exact h.pulseEnded hactive
  | burstEnded p e r hheld _ body => exact h.burstEnded hheld _ _ _ body
  | burstLost p e hheld hslot => exact absurd hslot (h.not_burstLost hheld)
  | audited hheld => exact h.audited hheld

/-- A step from an invariant state keeps what fits, and lowers nothing of a READY part. -/
theorem kept_of_step {s t : State} (h : Inv s) (hstep : step s = .next t) : ∃ rest, Kept { s with pending := rest } t := by
  obtain ⟨rest, ht⟩ := happens_of_step hstep
  have hrest : Inv { s with pending := rest } := h
  exact ⟨rest, kept_of_happens hrest.1 hrest.fits ht⟩

/-- Settles O4: what happens keeps the array, the rings, the cut pulse, and every block, engine and port fit. -/
theorem invariantKept : Obligations.InvariantKept := by
  unfold Obligations.InvariantKept
  intro s t h hstep
  obtain ⟨rest, hkept⟩ := kept_of_step h hstep
  obtain ⟨hwf, -, -, -, -, hrings, -, -, -, hcut, -⟩ := h
  exact hkept.fits.inv (cellsOnlyRise s t hwf hstep).1 (ringsKept s t hrings hstep) (writeProtectHolds s t hcut hstep).1

/-- Settles O7: the quota stands in the invariant. -/
theorem quotaKept : Obligations.QuotaKept := by
  unfold Obligations.QuotaKept
  intro s t h hstep
  obtain ⟨-, -, -, hquota, -⟩ := invariantKept s t h hstep
  exact hquota

/-- Settles O8: the directory's order and bounds stand in the invariant. -/
theorem directoryKept : Obligations.DirectoryKept := by
  unfold Obligations.DirectoryKept
  intro s t h hstep
  obtain ⟨-, -, -, -, hdirectory, -⟩ := invariantKept s t h hstep
  exact hdirectory

/-- Settles O10: the copy stands in the array by the invariant, and of a READY part it only rises. -/
theorem marksOnlyAccumulate : Obligations.MarksOnlyAccumulate := by
  unfold Obligations.MarksOnlyAccumulate
  intro s t h hstep
  obtain ⟨-, -, -, -, -, -, hpolicy, -⟩ := invariantKept s t h hstep
  obtain ⟨rest, hkept⟩ := kept_of_step h hstep
  exact ⟨hpolicy, fun hs ht => (hkept.rises hs ht).2⟩

/-- Settles O11: the lines stand in the invariant. -/
theorem linesFollowTheirMode : Obligations.LinesFollowTheirMode := by
  unfold Obligations.LinesFollowTheirMode
  intro s t h hstep
  obtain ⟨-, -, -, -, -, -, -, hlines, -⟩ := invariantKept s t h hstep
  exact hlines

/-- Settles O13: a counter job's bound stands in the invariant, and of a READY part the values only rise. -/
theorem countersNeverFall : Obligations.CountersNeverFall := by
  unfold Obligations.CountersNeverFall
  intro s t h hstep
  obtain ⟨-, -, -, -, -, -, -, -, -, -, hbound, -⟩ := invariantKept s t h hstep
  obtain ⟨rest, hkept⟩ := kept_of_step h hstep
  exact ⟨hbound, fun hs ht => (hkept.rises hs ht).1⟩

/-- Settles O14: the agreement of engine, claims and holder stands in the invariant. -/
theorem oneHolderKept : Obligations.OneHolderKept := by
  unfold Obligations.OneHolderKept
  intro s t h hstep
  obtain ⟨-, hengine, hclaims, -⟩ := invariantKept s t h hstep
  exact ⟨hengine, hclaims⟩

end Sys2Proof.Machine
end
